-- ==== Sys2Proof/Word.lean ====
section
/-! DEFINITION. The widths of R8 and R11: bytes, 16-bit and 32-bit values, all unsigned, bit 0 the least significant. -/

namespace Sys2Proof

/-- An 8-bit unsigned value (R8). -/
abbrev Byte := BitVec 8

/-- A 16-bit unsigned value (R8). -/
abbrev Half := BitVec 16

/-- A 32-bit unsigned value (R8). -/
abbrev Word := BitVec 32

end Sys2Proof
end

