-- ==== Sys2Proof/Config.lean ====
section
/-! DEFINITION. The parameters of R7: the fixed and decided ones with their value, the OPEN ones and the free values as
opaque constants that nothing can evaluate. -/

namespace Sys2Proof.Config

/-- `MAX_PKT`: the packet size of control and bulk endpoints (R7). -/
def maxPkt : Nat := 64

/-- `INT_PKT`: the packet size of the interrupt-IN endpoint (R7, D57). -/
def intPkt : Nat := 16

/-- `INT_INTERVAL` (R7, D57). -/
def intInterval : Byte := 0x10#8

/-- `CTRL_IN_BUF`: the capacity of the EP0 IN staging buffer (R7, D27, C3). -/
def ctrlInBuf : Nat := 256

/-- `IF_COMM`, the communication interface, as `wIndex` carries it (R7, D8). -/
def ifComm : Half := 0#16

/-- `IF_COMM` as a descriptor byte (R7, D8). -/
def ifCommByte : Byte := 0#8

/-- `IF_DATA`, the data interface, as a descriptor byte (R7, D8). -/
def ifDataByte : Byte := 1#8

/-- `BCD_DEVICE` (R7, D59). -/
def bcdDevice : Half := 0x0100#16

/-- `CFG_ATTRIBUTES` (R7, D58). -/
def cfgAttributes : Byte := 0xA0#8

/-- `CFG_MAXPOWER` (R7, D58). -/
def cfgMaxPower : Byte := 0x32#8

/-- `DEFAULT_BAUD` (R7, R23). -/
def defaultBaud : Word := 115200#32

/-- `VID`, OPEN (R7, U12; log 22). -/
opaque vid : Half

/-- `PID`, OPEN (R7, U12; log 22). -/
opaque pid : Half

/-- The characters `STR_MANUFACTURER` is cut from, OPEN (R7, U12; log 22). -/
opaque manufacturerText : List Byte

/-- The characters `STR_PRODUCT` is cut from, OPEN (R7, U12; log 22). -/
opaque productText : List Byte

/-- An ASCII string of at most 126 characters: R7's constraint on the two OPEN strings. Every such string is its own
image, so nothing is shut out. -/
def asciiParam (text : List Byte) : List Byte := (text.take 126).map (fun c => c &&& 0x7F#8)

/-- `STR_MANUFACTURER` (R7). -/
def strManufacturer : List Byte := asciiParam manufacturerText

/-- `STR_PRODUCT` (R7). -/
def strProduct : List Byte := asciiParam productText

/-- `resetHook`, OPEN (R7, R176, D46, U10): whether call number `call` of the hook resets the system, given the line
information it is called with (baudRate, charFormat, parityType, dataBits, lineState). FREE VALUE (log 16): both answers
are admitted after every call. -/
opaque resetHook (call : Nat) (baudRate : Word) (charFormat parityType dataBits : Byte) (lineState : BitVec 2) : Bool

/-- What the ring sink does with a byte handed to it (R197: "keeps, drops or overwrites the byte"). -/
inductive SinkAnswer where
  | keeps
  | drops
  | overwrites
  deriving DecidableEq, Repr, Inhabited

/-- `ringSink`, OPEN (R7, R197, D45, U11): what the external ring buffer does with the byte of draw number `draw`. The push
completes whatever it answers. FREE VALUE (log 21): every answer is admitted at every push. -/
opaque ringSink (draw : Nat) (b : Byte) : SinkAnswer

/-- The value read from a staging byte no rule has written (U1): draw number `draw`, buffer number `buf`, offset `off`.
FREE VALUE (log 11). -/
opaque freeByte (draw buf off : Nat) : Byte

end Sys2Proof.Config
end

