-- ==== Sys2Proof/Syntax.lean ====
section
/-! DEFINITION. The operations of spec/opcode_table.json, one constructor a row, and the types of their operands. -/

namespace Sys2Proof

/-- An endpoint number, 0 to 3 (`NUM_EP` = 4, R7): control, interrupt-IN, bulk-OUT, bulk-IN (D7). -/
inductive Ep where
  | ep0
  | ep1
  | ep2
  | ep3
  deriving DecidableEq, Repr

/-- The direction of a DMA transfer (R40): IN is device-to-host, OUT host-to-device (R15). -/
inductive Dir where
  | dirIn
  | dirOut
  deriving DecidableEq, Repr

/-- The staging buffers (R28): an IN and an OUT buffer for each endpoint. -/
inductive BufId where
  | ep0In
  | ep0Out
  | epIn1
  | epOut1
  | epIn2
  | epOut2
  | epIn3
  | epOut3
  deriving DecidableEq, Repr

/-- A setup packet (R80, R115). -/
structure SetupPacket where
  requestType : Byte
  request : Byte
  valueLow : Byte
  valueHigh : Byte
  index : Half
  length : Half
  deriving DecidableEq, Repr

/-- The three formats of operations (30_encoding.md, its opening): a setup packet, a dispatcher event, a call. -/
inductive Format where
  | setup
  | event
  | call
  deriving DecidableEq, Repr

/-- Why a record names no operation. -/
inductive DecodeError where
  /-- the record ends before its operands do -/
  | shortRecord
  /-- an event id above 8, which no row has (R97) -/
  | unassignedEvent
  /-- a call id above 0x19, which no row has (R97) -/
  | unassignedCall
  /-- an endpoint operand that is not an endpoint of the row -/
  | badEndpoint
  /-- a direction operand that is neither IN nor OUT -/
  | badDirection
  /-- a buffer operand that is not a staging buffer -/
  | badBuffer
  deriving DecidableEq, Repr

/-- The operations, in the order of spec/opcode_table.json. A SETUP row carries its whole packet. -/
inductive Instr where
  | getStatus (sp : SetupPacket)
  | clearFeature (sp : SetupPacket)
  | setFeature (sp : SetupPacket)
  | setAddress (sp : SetupPacket)
  | getDescriptor (sp : SetupPacket)
  | setDescriptor (sp : SetupPacket)
  | getConfiguration (sp : SetupPacket)
  | setConfiguration (sp : SetupPacket)
  | getInterface (sp : SetupPacket)
  | setInterface (sp : SetupPacket)
  | stdOther (sp : SetupPacket)
  | setLineCoding (sp : SetupPacket)
  | getLineCoding (sp : SetupPacket)
  | setControlLineState (sp : SetupPacket)
  | sendBreak (sp : SetupPacket)
  | classOther (sp : SetupPacket)
  | classOtherIf (sp : SetupPacket)
  | vendorReserved (sp : SetupPacket)
  | irqInvoke
  | evReady
  | evEp0DataDone
  | evEp0Setup
  | evEpData
  | evEndEpOut0
  | evEndEpOut1
  | evEndEpOut2
  | evEndEpOut3
  | configure
  | writeByte (b : Byte)
  | writeByteSpin
  | dtr
  | rts
  | decodeSetup
  | dispatchSetup (sp : SetupPacket)
  | stallEp0
  | statusStage
  | initEndpoint (n : Ep)
  | lineCodingComplete
  | checkShouldReset
  | getDescriptorSelect (sp : SetupPacket)
  | respond (sp : SetupPacket) (d : List Byte)
  | enterCs
  | enterCsIrq
  | exitCs
  | sendViaEpIn (n : Ep) (buf : BufId) (off : Half) (cnt : Half)
  | sendUsbPacket (n : Ep) (data : List Byte)
  | sendContinuation (off : Half) (rem : Half)
  | dmaStart (dir : Dir) (n : Ep)
  | startEp0OutRead
  | bulkOutDone (n : Ep)
  | bulkOutDeliver (n : Ep)
  | dmaComplete
  | ringPush (b : Byte)
  deriving DecidableEq, Repr

end Sys2Proof
end

