-- ==== Sys2Proof/Decode.lean ====
section
/-! DEFINITION. Records to operations and back: the decoder of the three formats, the encoder, and `decodeTableWord`.
A record is a format and a list of bytes. A SETUP record is the 8 bytes of the packet (R80); an EVENT record is one byte
whose low four bits are the event id (R97); a CALL record is the call id (R97) followed by its operands, whose layout is
the model's own, since "no bit pattern exists" (log 3). -/

namespace Sys2Proof

/-! ## Byte order (R11, R62, R64) -/

/-- `le16` (R11). -/
def le16 (v : Half) : List Byte := [v.extractLsb' 0 8, v.extractLsb' 8 8]

/-- `le32` (R11). -/
def le32 (v : Word) : List Byte := [v.extractLsb' 0 8, v.extractLsb' 8 8, v.extractLsb' 16 8, v.extractLsb' 24 8]

/-- The 16-bit value of two bytes, the low one first (R64). -/
def ofLe16 (lo hi : Byte) : Half := hi ++ lo

/-- The 32-bit value of four bytes, the lowest first (R175, R198). -/
def ofLe32 (b0 b1 b2 b3 : Byte) : Word := b3 ++ b2 ++ b1 ++ b0

/-! ## Fields of the setup packet (R81, R82) -/

/-- `requestType[6:5]`: 0 standard, 1 class, 2 vendor, 3 reserved (R81). -/
def SetupPacket.typeBits (sp : SetupPacket) : BitVec 2 := sp.requestType.extractLsb' 5 2

/-- `requestType[4:0]`: the recipient (R81). -/
def SetupPacket.recipient (sp : SetupPacket) : BitVec 5 := sp.requestType.extractLsb' 0 5

/-- `index[3:0]`: the endpoint number of the feature requests and `GET_STATUS` (R82). -/
def SetupPacket.endpoint (sp : SetupPacket) : BitVec 4 := sp.index.extractLsb' 0 4

/-! ## SETUP records -/

/-- The standard row of a packet, by its request code (R84, R140). -/
def selectStandard (sp : SetupPacket) : Instr :=
  if sp.request = 0x00#8 then .getStatus sp
  else if sp.request = 0x01#8 then .clearFeature sp
  else if sp.request = 0x03#8 then .setFeature sp
  else if sp.request = 0x05#8 then .setAddress sp
  else if sp.request = 0x06#8 then .getDescriptor sp
  else if sp.request = 0x07#8 then .setDescriptor sp
  else if sp.request = 0x08#8 then .getConfiguration sp
  else if sp.request = 0x09#8 then .setConfiguration sp
  else if sp.request = 0x0A#8 then .getInterface sp
  else if sp.request = 0x0B#8 then .setInterface sp
  else .stdOther sp

/-- The class row of a packet for `IF_COMM`, by its request code (R85, R170). -/
def selectClass (sp : SetupPacket) : Instr :=
  if sp.request = 0x20#8 then .setLineCoding sp
  else if sp.request = 0x21#8 then .getLineCoding sp
  else if sp.request = 0x22#8 then .setControlLineState sp
  else if sp.request = 0x23#8 then .sendBreak sp
  else .classOther sp

/-- The row of a packet (R83 to R89): every packet has one. -/
def selectRow (sp : SetupPacket) : Instr :=
  if sp.typeBits = 0#2 then selectStandard sp
  else if sp.typeBits = 1#2 then
    if sp.index = Config.ifComm then selectClass sp else .classOtherIf sp
  else .vendorReserved sp

/-- A packet from the front of a record (R80). -/
def takePacket : List Byte → Except DecodeError (SetupPacket × List Byte)
  | t :: r :: vl :: vh :: il :: ih :: ll :: lh :: rest => .ok (⟨t, r, vl, vh, ofLe16 il ih, ofLe16 ll lh⟩, rest)
  | _ => .error .shortRecord

/-! ## CALL operands (log 3) -/

/-- One byte. -/
def takeByte : List Byte → Except DecodeError (Byte × List Byte)
  | b :: rest => .ok (b, rest)
  | _ => .error .shortRecord

/-- A 16-bit value, little-endian. -/
def takeHalf : List Byte → Except DecodeError (Half × List Byte)
  | lo :: hi :: rest => .ok (ofLe16 lo hi, rest)
  | _ => .error .shortRecord

/-- An endpoint number 0 to 3. -/
def takeEp : List Byte → Except DecodeError (Ep × List Byte)
  | b :: rest =>
    if b = 0#8 then .ok (.ep0, rest)
    else if b = 1#8 then .ok (.ep1, rest)
    else if b = 2#8 then .ok (.ep2, rest)
    else if b = 3#8 then .ok (.ep3, rest)
    else .error .badEndpoint
  | _ => .error .shortRecord

/-- A non-control endpoint 1 to 3, written as its number less one. -/
def takeDataEp : List Byte → Except DecodeError (Ep × List Byte)
  | b :: rest =>
    if b = 0#8 then .ok (.ep1, rest)
    else if b = 1#8 then .ok (.ep2, rest)
    else if b = 2#8 then .ok (.ep3, rest)
    else .error .badEndpoint
  | _ => .error .shortRecord

/-- A direction: 0 IN, 1 OUT. -/
def takeDir : List Byte → Except DecodeError (Dir × List Byte)
  | b :: rest =>
    if b = 0#8 then .ok (.dirIn, rest)
    else if b = 1#8 then .ok (.dirOut, rest)
    else .error .badDirection
  | _ => .error .shortRecord

/-- A staging buffer, by its place in the list of R28. -/
def takeBuf : List Byte → Except DecodeError (BufId × List Byte)
  | b :: rest =>
    if b = 0#8 then .ok (.ep0In, rest)
    else if b = 1#8 then .ok (.ep0Out, rest)
    else if b = 2#8 then .ok (.epIn1, rest)
    else if b = 3#8 then .ok (.epOut1, rest)
    else if b = 4#8 then .ok (.epIn2, rest)
    else if b = 5#8 then .ok (.epOut2, rest)
    else if b = 6#8 then .ok (.epIn3, rest)
    else if b = 7#8 then .ok (.epOut3, rest)
    else .error .badBuffer
  | _ => .error .shortRecord

/-- A byte sequence after its 16-bit length. -/
def takeData (bytes : List Byte) : Except DecodeError (List Byte × List Byte) :=
  match takeHalf bytes with
  | .error e => .error e
  | .ok (len, rest) =>
    if len.toNat ≤ rest.length then .ok (rest.take len.toNat, rest.drop len.toNat) else .error .shortRecord

/-- One operand, handed to the row's constructor. -/
def with1 {α : Type} (take : List Byte → Except DecodeError (α × List Byte)) (bytes : List Byte)
    (mk : α → List Byte → Except DecodeError Instr) : Except DecodeError Instr :=
  match take bytes with
  | .error e => .error e
  | .ok (a, rest) => mk a rest

/-- The call of an id and its operand bytes (R97: "numbered in table order"). Bytes past the operands are not read. -/
def decodeCall (id : Byte) (ops : List Byte) : Except DecodeError Instr :=
  if id = 0x00#8 then .ok .configure
  else if id = 0x01#8 then with1 takeByte ops fun b _ => .ok (.writeByte b)
  else if id = 0x02#8 then .ok .writeByteSpin
  else if id = 0x03#8 then .ok .dtr
  else if id = 0x04#8 then .ok .rts
  else if id = 0x05#8 then .ok .decodeSetup
  else if id = 0x06#8 then with1 takePacket ops fun sp _ => .ok (.dispatchSetup sp)
  else if id = 0x07#8 then .ok .stallEp0
  else if id = 0x08#8 then .ok .statusStage
  else if id = 0x09#8 then with1 takeDataEp ops fun n _ => .ok (.initEndpoint n)
  else if id = 0x0A#8 then .ok .lineCodingComplete
  else if id = 0x0B#8 then .ok .checkShouldReset
  else if id = 0x0C#8 then with1 takePacket ops fun sp _ => .ok (.getDescriptorSelect sp)
  else if id = 0x0D#8 then
    with1 takePacket ops fun sp r => with1 takeData r fun d _ => .ok (.respond sp d)
  else if id = 0x0E#8 then .ok .enterCs
  else if id = 0x0F#8 then .ok .enterCsIrq
  else if id = 0x10#8 then .ok .exitCs
  else if id = 0x11#8 then
    with1 takeEp ops fun n r1 => with1 takeBuf r1 fun buf r2 => with1 takeHalf r2 fun off r3 =>
      with1 takeHalf r3 fun cnt _ => .ok (.sendViaEpIn n buf off cnt)
  else if id = 0x12#8 then with1 takeEp ops fun n r => with1 takeData r fun d _ => .ok (.sendUsbPacket n d)
  else if id = 0x13#8 then
    with1 takeHalf ops fun off r => with1 takeHalf r fun rem _ => .ok (.sendContinuation off rem)
  else if id = 0x14#8 then with1 takeDir ops fun d r => with1 takeEp r fun n _ => .ok (.dmaStart d n)
  else if id = 0x15#8 then .ok .startEp0OutRead
  else if id = 0x16#8 then with1 takeEp ops fun n _ => .ok (.bulkOutDone n)
  else if id = 0x17#8 then with1 takeEp ops fun n _ => .ok (.bulkOutDeliver n)
  else if id = 0x18#8 then .ok .dmaComplete
  else if id = 0x19#8 then with1 takeByte ops fun b _ => .ok (.ringPush b)
  else .error .unassignedCall

/-- The event of a 4-bit id (R97). -/
def decodeEvent (id : BitVec 4) : Except DecodeError Instr :=
  if id = 0#4 then .ok .irqInvoke
  else if id = 1#4 then .ok .evReady
  else if id = 2#4 then .ok .evEp0DataDone
  else if id = 3#4 then .ok .evEp0Setup
  else if id = 4#4 then .ok .evEpData
  else if id = 5#4 then .ok .evEndEpOut0
  else if id = 6#4 then .ok .evEndEpOut1
  else if id = 7#4 then .ok .evEndEpOut2
  else if id = 8#4 then .ok .evEndEpOut3
  else .error .unassignedEvent

/-- The operation a record names, or the name of what is wrong with the record. Total on any bytes; bytes past the
operation's own are not read. -/
def decode : Format → List Byte → Except DecodeError Instr
  | .setup, bytes => with1 takePacket bytes fun sp _ => .ok (selectRow sp)
  | .event, b :: _ => decodeEvent (b.extractLsb' 0 4)
  | .call, id :: ops => decodeCall id ops
  | .event, [] => .error .shortRecord
  | .call, [] => .error .shortRecord

/-! ## The encoder, from the same layouts -/

/-- The 8 bytes of a packet (R80). -/
def encodePacket (sp : SetupPacket) : List Byte :=
  [sp.requestType, sp.request, sp.valueLow, sp.valueHigh] ++ le16 sp.index ++ le16 sp.length

/-- An endpoint operand. -/
def encodeEp : Ep → Byte
  | .ep0 => 0#8
  | .ep1 => 1#8
  | .ep2 => 2#8
  | .ep3 => 3#8

/-- A non-control endpoint operand (the control endpoint has none). -/
def encodeDataEp : Ep → Byte
  | .ep0 => 0xFF#8
  | .ep1 => 0#8
  | .ep2 => 1#8
  | .ep3 => 2#8

/-- A direction operand. -/
def encodeDir : Dir → Byte
  | .dirIn => 0#8
  | .dirOut => 1#8

/-- A buffer operand. -/
def encodeBuf : BufId → Byte
  | .ep0In => 0#8
  | .ep0Out => 1#8
  | .epIn1 => 2#8
  | .epOut1 => 3#8
  | .epIn2 => 4#8
  | .epOut2 => 5#8
  | .epIn3 => 6#8
  | .epOut3 => 7#8

/-- A byte sequence operand. -/
def encodeData (d : List Byte) : List Byte := le16 (BitVec.ofNat 16 d.length) ++ d

/-- The format of an operation (the table's "format" column). -/
def Instr.format : Instr → Format
  | .getStatus _ | .clearFeature _ | .setFeature _ | .setAddress _ | .getDescriptor _ | .setDescriptor _
  | .getConfiguration _ | .setConfiguration _ | .getInterface _ | .setInterface _ | .stdOther _ | .setLineCoding _
  | .getLineCoding _ | .setControlLineState _ | .sendBreak _ | .classOther _ | .classOtherIf _
  | .vendorReserved _ => .setup
  | .irqInvoke | .evReady | .evEp0DataDone | .evEp0Setup | .evEpData | .evEndEpOut0 | .evEndEpOut1 | .evEndEpOut2
  | .evEndEpOut3 => .event
  | .configure | .writeByte _ | .writeByteSpin | .dtr | .rts | .decodeSetup | .dispatchSetup _ | .stallEp0
  | .statusStage | .initEndpoint _ | .lineCodingComplete | .checkShouldReset | .getDescriptorSelect _ | .respond _ _
  | .enterCs | .enterCsIrq | .exitCs | .sendViaEpIn _ _ _ _ | .sendUsbPacket _ _ | .sendContinuation _ _
  | .dmaStart _ _ | .startEp0OutRead | .bulkOutDone _ | .bulkOutDeliver _ | .dmaComplete | .ringPush _ => .call

/-- The bytes of an operation's record. -/
def encode : Instr → List Byte
  | .getStatus sp => encodePacket sp
  | .clearFeature sp => encodePacket sp
  | .setFeature sp => encodePacket sp
  | .setAddress sp => encodePacket sp
  | .getDescriptor sp => encodePacket sp
  | .setDescriptor sp => encodePacket sp
  | .getConfiguration sp => encodePacket sp
  | .setConfiguration sp => encodePacket sp
  | .getInterface sp => encodePacket sp
  | .setInterface sp => encodePacket sp
  | .stdOther sp => encodePacket sp
  | .setLineCoding sp => encodePacket sp
  | .getLineCoding sp => encodePacket sp
  | .setControlLineState sp => encodePacket sp
  | .sendBreak sp => encodePacket sp
  | .classOther sp => encodePacket sp
  | .classOtherIf sp => encodePacket sp
  | .vendorReserved sp => encodePacket sp
  | .irqInvoke => [0x0#8]
  | .evReady => [0x1#8]
  | .evEp0DataDone => [0x2#8]
  | .evEp0Setup => [0x3#8]
  | .evEpData => [0x4#8]
  | .evEndEpOut0 => [0x5#8]
  | .evEndEpOut1 => [0x6#8]
  | .evEndEpOut2 => [0x7#8]
  | .evEndEpOut3 => [0x8#8]
  | .configure => [0x00#8]
  | .writeByte b => [0x01#8, b]
  | .writeByteSpin => [0x02#8]
  | .dtr => [0x03#8]
  | .rts => [0x04#8]
  | .decodeSetup => [0x05#8]
  | .dispatchSetup sp => 0x06#8 :: encodePacket sp
  | .stallEp0 => [0x07#8]
  | .statusStage => [0x08#8]
  | .initEndpoint n => [0x09#8, encodeDataEp n]
  | .lineCodingComplete => [0x0A#8]
  | .checkShouldReset => [0x0B#8]
  | .getDescriptorSelect sp => 0x0C#8 :: encodePacket sp
  | .respond sp d => 0x0D#8 :: (encodePacket sp ++ encodeData d)
  | .enterCs => [0x0E#8]
  | .enterCsIrq => [0x0F#8]
  | .exitCs => [0x10#8]
  | .sendViaEpIn n buf off cnt => 0x11#8 :: encodeEp n :: encodeBuf buf :: (le16 off ++ le16 cnt)
  | .sendUsbPacket n data => 0x12#8 :: encodeEp n :: encodeData data
  | .sendContinuation off rem => 0x13#8 :: (le16 off ++ le16 rem)
  | .dmaStart dir n => [0x14#8, encodeDir dir, encodeEp n]
  | .startEp0OutRead => [0x15#8]
  | .bulkOutDone n => [0x16#8, encodeEp n]
  | .bulkOutDeliver n => [0x17#8, encodeEp n]
  | .dmaComplete => [0x18#8]
  | .ringPush b => [0x19#8, b]

/-! ## Words of the opcode table

The table's words carry no format: an EVENT row and a CALL row are both one byte. `tableRecord` chooses the format by the
width, and between the formats of one byte by R97's own priority, the row with more mask bits (log 4). -/

/-- The longest record with zero operands: RESPOND's id, packet and length. -/
def longestZeroRecord : Nat := 11

/-- The bytes of a number, the least significant first. -/
def bytesOfNat : Nat → Nat → List Byte
  | 0, _ => []
  | k + 1, w => BitVec.ofNat 8 w :: bytesOfNat k (w / 256)

/-- The record of a table word: `w` in little-endian bytes, with zero bytes after it. -/
def tableRecord (nbits w : Nat) : Format × List Byte :=
  let bytes := bytesOfNat longestZeroRecord (w % 2 ^ nbits)
  if nbits ≤ 4 then (.event, bytes)
  else if nbits ≤ 8 ∧ w % 2 ^ nbits ≤ 0x19 then (.call, bytes)
  else (.setup, bytes)

/-- The operation the decoder reads from a table word. -/
def decodeTableWord (nbits w : Nat) : Option Instr :=
  match decode (tableRecord nbits w).1 (tableRecord nbits w).2 with
  | .ok i => some i
  | .error _ => none

end Sys2Proof
end

