-- ==== Sys2Proof/Machine/State.lean ====
section
/-! DEFINITION. The machine's state (10_state.md), its reasons to stop, and its reset value (R45, R290). Plain data. -/

namespace Sys2Proof.Machine

/-- One value for each endpoint 0 to 3: the arrays `X[n]` of the spec. -/
structure PerEp (α : Type) where
  e0 : α
  e1 : α
  e2 : α
  e3 : α
  deriving DecidableEq, Repr

/-! ## The device context (R20 to R30) -/

/-- `ctx.dev`, DeviceState (R21). -/
structure DeviceState where
  configurationValue : Byte
  alternateInterface : Byte
  endpointHaltFlags : BitVec 4
  remoteWakeupEnabled : Bool
  deriving DecidableEq, Repr

/-- `ctx.line`, LineInfo (R23): `lineState` bit 0 is DTR, bit 1 is RTS (D33). -/
structure LineInfo where
  baudRate : Word
  charFormat : Byte
  parityType : Byte
  dataBits : Byte
  lineState : BitVec 2
  deriving DecidableEq, Repr

/-- `ctx.irqPhase`, the position of `IRQ` (R22). -/
inductive IrqPhase where
  | idle
  | a
  | b
  | c
  | d1
  | d2
  | d3
  | e0
  | e1
  | e2
  | e3
  deriving DecidableEq, Repr

/-- PendingMultiPacketSend (R24). -/
structure Pending where
  offset : Half
  remaining : Half
  deriving DecidableEq, Repr

/-- The transfer kind of an endpoint (R27). -/
inductive EpKind where
  | control
  | interrupt
  | bulk
  deriving DecidableEq, Repr

/-- The direction of an endpoint (R27). -/
inductive EpDir where
  | bidirectional
  | dirIn
  | dirOut
  deriving DecidableEq, Repr

/-- A row of EndpointTable (R27). -/
structure EpEntry where
  kind : EpKind
  dir : EpDir
  deriving DecidableEq, Repr

/-- A facade call (R29). -/
inductive FacadeOp where
  | configure
  | writeByte (b : Byte)
  | dtr
  | rts
  deriving DecidableEq, Repr

/-- `ctx.fg`, the position of `FG` (R29). -/
inductive FgPos where
  | ready
  | call (op : FacadeOp)
  | spin (b : Byte)
  deriving DecidableEq, Repr

/-- `ctx`, the device context (R20): exactly the fields of R21 to R30 that are not buffers. -/
structure Ctx where
  dev : DeviceState
  irqPhase : IrqPhase
  line : LineInfo
  pending : Option Pending
  lineCodingPending : Bool
  dmaBusy : Bool
  epTable : PerEp EpEntry
  fg : FgPos
  handlerInstalled : Bool
  deriving DecidableEq, Repr

/-! ## The peripheral register file (R31 to R37) -/

/-- A buffer reference used as a DMA pointer (R31, D44). -/
structure BufRef where
  buf : BufId
  off : Half
  deriving DecidableEq, Repr

/-- `INTEN`, one bit per cause (R31). -/
structure Causes where
  usbEvent : Bool
  ep0Setup : Bool
  ep0DataDone : Bool
  epData : Bool
  endEpOut : PerEp Bool
  deriving DecidableEq, Repr

/-- The event flags (R32). -/
structure Events where
  usbEvent : Bool
  ep0Setup : Bool
  ep0DataDone : Bool
  epData : Bool
  endEpOut : PerEp Bool
  endEpIn : PerEp Bool
  deriving DecidableEq, Repr

/-- The name of an event flag (R32). -/
inductive EventFlag where
  | usbEvent
  | ep0Setup
  | ep0DataDone
  | epData
  | endEpOut (n : Ep)
  | endEpIn (n : Ep)
  deriving DecidableEq, Repr

/-- `EVENTCAUSE` (R33). -/
structure EventCause where
  ready : Bool
  other : Bool
  deriving DecidableEq, Repr

/-- The setup-packet field registers (R35). -/
structure SetupRegs where
  bmRequestType : Byte
  bRequest : Byte
  wValueL : Byte
  wValueH : Byte
  wIndexL : Byte
  wIndexH : Byte
  wLengthL : Byte
  wLengthH : Byte
  deriving DecidableEq, Repr

/-- `reg`, the register file (R31 to R37). `EPDATASTATUS` holds `EPIN(n)` at bit n and `EPOUT(n)` at bit 16+n (R34). -/
structure Regs where
  enable : Bool
  usbPullup : Bool
  inten : Causes
  epInEn : BitVec 4
  epOutEn : BitVec 4
  epInPtr : PerEp BufRef
  epOutPtr : PerEp BufRef
  epInMaxCnt : PerEp Half
  epOutMaxCnt : PerEp Half
  events : Events
  eventCause : EventCause
  epDataStatus : BitVec 32
  setup : SetupRegs
  epOutAmount : PerEp Half
  sizeEpOut : PerEp Byte
  deriving DecidableEq, Repr

/-! ## The DMA engine and the bus side (R40, R41) -/

/-- A DMA transfer in flight (R40). -/
structure Transfer where
  dir : Dir
  ep : Ep
  buf : BufId
  off : Half
  cnt : Half
  deriving DecidableEq, Repr

/-- The bus-side state of the peripheral (R41). -/
structure Bus where
  ready : Bool
  inLoaded : PerEp (Option (List Byte))
  outData : PerEp (Option (List Byte))
  outArmed : PerEp Bool
  ep0RcvArmed : Bool
  deriving DecidableEq, Repr

/-- The staging buffers' contents (R28): pairs of a byte's key (`bufKey`) and the byte, keys strictly rising. A byte that
is not listed was never written. -/
abbrev Memory := List Host.Cell

/-! ## Faults, hangs, history (R42, R43, R265) -/

/-- A model fault of R265 with what it records. It is data of the state: the machine goes on (log 13). -/
inductive FaultRecord where
  /-- F1: the transfer in flight and the refused start (R192) -/
  | dmaContention (inFlight : Transfer) (dir : Dir) (n : Ep)
  /-- F2: a DMA start whose region leaves its buffer (R61, R192) -/
  | dmaBounds (buf : BufId) (off : Nat) (cnt : Nat)
  /-- F3: a block access to a byte the DMA in flight owns (R72) -/
  | bufferRace (buf : BufId) (off : Nat)
  /-- F4: a response longer than its staging buffer (R190) -/
  | responseTooLong (len : Nat)
  /-- F5: a read of a staging byte no rule has written (R28) -/
  | uninitRead (buf : BufId) (off : Nat)
  deriving DecidableEq, Repr

/-- A hang that is recorded in the state (R265). H2 is no record: see `ForegroundHang` in Safety.lean. -/
inductive HangKind where
  /-- H1: `IRQ` spins for ever in `enterCriticalSection` (R187) -/
  | irqSpinDeadlock
  deriving DecidableEq, Repr

/-- A visible event (R43). -/
inductive HistoryEvent where
  | push (b : Byte)
  | hook (line : LineInfo)
  | tx (n : Ep) (bytes : List Byte)
  | stall
  | status
  deriving DecidableEq, Repr

/-- A byte handed to the ring sink, and what the sink did with it (R197, log 21). -/
structure Handed where
  byte : Byte
  answer : Config.SinkAnswer
  deriving DecidableEq, Repr

/-! ## What moves next (log 1) -/

/-- A step of the `HOST` agent (R275 to R278). -/
inductive HostStep where
  | ready
  | setup (b0 b1 b2 b3 b4 b5 b6 b7 : Byte)
  | takeIn (n : Ep)
  | sendOut (n : Ep) (d : List Byte)
  deriving DecidableEq, Repr

/-- One entry of the schedule: which agent moves. -/
inductive Turn where
  /-- `IRQ` takes its next step, read off `ctx.irqPhase` -/
  | irq
  /-- `FG` takes its next step, read off `ctx.fg` -/
  | fg
  /-- `DMA` takes its step -/
  | dma
  /-- a caller enters a facade call -/
  | call (op : FacadeOp)
  /-- `HOST` takes a step -/
  | host (h : HostStep)
  /-- the operation a record names is performed -/
  | record (fmt : Format) (bytes : List Byte)
  /-- a system reset from outside the block (R290) -/
  | systemReset
  deriving DecidableEq, Repr

/-- The value the last operation that returns one returned (log 7). -/
inductive RetVal where
  | nothing
  | bool (b : Bool)
  | success
  | packet (sp : SetupPacket)
  deriving DecidableEq, Repr

/-- The whole state. `epDataSnap` is the variable `s` of phase D (R118, log 19); `hang` is H1 (R187, log 15); `sink`
is the far side of the push interface (R197, log 21); `ret`, `freeIdx` and `sched` are the model's own (log 7, 17, 1). -/
structure State where
  ctx : Ctx
  reg : Regs
  dma : Option Transfer
  bus : Bus
  mem : Memory
  faults : List FaultRecord
  history : List HistoryEvent
  sink : List Handed
  epDataSnap : BitVec 32
  hang : Option HangKind
  ret : RetVal
  freeIdx : Nat
  sched : List Turn
  deriving DecidableEq, Repr

/-! ## Reasons to stop -/

/-- Why the machine stops with a fault. The model faults of R265 are not here: they are records in the state. -/
inductive Fault where
  /-- raised by `step` for a record that names no row of the opcode table (an unassigned id, a record too short, an operand
  that is no endpoint, direction or buffer); safe: the spec gives no such operation and no script contains one (log 3) -/
  | badRecord (e : DecodeError)
  deriving DecidableEq, Repr

/-- Why an instruction has no meaning. -/
inductive Refusal where
  /-- raised by `exec` for a row that has no meaning yet (none is left); safe: the run stops -/
  | notModelled (mnemonic : String)
  deriving DecidableEq, Repr

/-- What an operation answers. -/
abbrev Result := Host.Outcome State Fault Refusal

/-- How an operation inside a step ends: it goes on with a value, or nothing further of the step happens, because the
reset hook reset the system (R176) or `IRQ` hangs (R187). -/
inductive Flow (α : Type) where
  | go (s : State) (a : α)
  | halt (s : State)
  deriving DecidableEq, Repr

/-! ## Reset (R45, R290) -/

/-- The same value for every endpoint. -/
def PerEp.all {α : Type} (a : α) : PerEp α := ⟨a, a, a, a⟩

/-- EndpointTable (R27). -/
def epTableConst : PerEp EpEntry :=
  ⟨⟨.control, .bidirectional⟩, ⟨.interrupt, .dirIn⟩, ⟨.bulk, .dirOut⟩, ⟨.bulk, .dirIn⟩⟩

/-- DeviceState unconfigured: the value at creation (R21) and after bus-ready (R112). -/
def DeviceState.unconfigured : DeviceState := ⟨0#8, 0#8, 0#4, false⟩

/-- LineInfo at creation: 115200 8N1, line state 0 (R23). -/
def LineInfo.atReset : LineInfo := ⟨Config.defaultBaud, 0#8, 0#8, 8#8, 0#2⟩

/-- The context at reset (R45). -/
def Ctx.atReset : Ctx :=
  { dev := .unconfigured
    irqPhase := .idle
    line := .atReset
    pending := none
    lineCodingPending := false
    dmaBusy := false
    epTable := epTableConst
    fg := .ready
    handlerInstalled := false }

/-- The registers at reset (R31 to R37, R45). DESIGN CHOICE: the setup registers (log 9) and `PTR`, `MAXCNT`, `AMOUNT`
(log 10), which R45 leaves unspecified, hold zero, a pointer the endpoint's own buffer at offset 0. -/
def Regs.atReset : Regs :=
  { enable := false
    usbPullup := false
    inten := ⟨false, false, false, false, .all false⟩
    epInEn := 0#4
    epOutEn := 0#4
    epInPtr := ⟨⟨.ep0In, 0#16⟩, ⟨.epIn1, 0#16⟩, ⟨.epIn2, 0#16⟩, ⟨.epIn3, 0#16⟩⟩
    epOutPtr := ⟨⟨.ep0Out, 0#16⟩, ⟨.epOut1, 0#16⟩, ⟨.epOut2, 0#16⟩, ⟨.epOut3, 0#16⟩⟩
    epInMaxCnt := .all 0#16
    epOutMaxCnt := .all 0#16
    events := ⟨false, false, false, false, .all false, .all false⟩
    eventCause := ⟨false, false⟩
    epDataStatus := 0#32
    setup := ⟨0#8, 0#8, 0#8, 0#8, 0#8, 0#8, 0#8, 0#8⟩
    epOutAmount := .all 0#16
    sizeEpOut := .all 0#8 }

/-- The bus side at reset (R41, R45). -/
def Bus.atReset : Bus :=
  { ready := false
    inLoaded := .all none
    outData := .all none
    outArmed := .all false
    ep0RcvArmed := false }

/-- The machine right after reset (R45, R290), with an empty schedule (log 1, log 5). -/
def State.reset : State :=
  { ctx := .atReset
    reg := .atReset
    dma := none
    bus := .atReset
    mem := []
    faults := []
    history := []
    sink := []
    epDataSnap := 0#32
    hang := none
    ret := .nothing
    freeIdx := 0
    sched := [] }

end Sys2Proof.Machine
end

