-- ==== Sys2Proof/Machine/Operands.lean ====
section
/-! DEFINITION. Operands: endpoint numbers, buffers and their capacity, the setup packet in the registers, payloads. -/

namespace Sys2Proof.Machine

/-! ## Endpoints -/

/-- `X[n]`. -/
def PerEp.get {α : Type} (p : PerEp α) : Ep → α
  | .ep0 => p.e0
  | .ep1 => p.e1
  | .ep2 => p.e2
  | .ep3 => p.e3

/-- `X[n] <- a`. -/
def PerEp.set {α : Type} (p : PerEp α) (n : Ep) (a : α) : PerEp α :=
  match n with
  | .ep0 => { p with e0 := a }
  | .ep1 => { p with e1 := a }
  | .ep2 => { p with e2 := a }
  | .ep3 => { p with e3 := a }

/-- The number of an endpoint. -/
def epNum : Ep → Nat
  | .ep0 => 0
  | .ep1 => 1
  | .ep2 => 2
  | .ep3 => 3

/-- The endpoint a 4-bit number names: `n < NUM_EP` (R141 to R143). -/
def epOfNibble (v : BitVec 4) : Option Ep :=
  if v = 0#4 then some .ep0
  else if v = 1#4 then some .ep1
  else if v = 2#4 then some .ep2
  else if v = 3#4 then some .ep3
  else none

/-- The bit of an endpoint in a 4-bit mask: bit n (R21, R31). -/
def epBit : Ep → BitVec 4
  | .ep0 => 0b0001#4
  | .ep1 => 0b0010#4
  | .ep2 => 0b0100#4
  | .ep3 => 0b1000#4

/-- A mask with the bit of an endpoint set. -/
def setEpBit (mask : BitVec 4) (n : Ep) : BitVec 4 := mask ||| epBit n

/-- A mask with the bit of an endpoint cleared. -/
def clearEpBit (mask : BitVec 4) (n : Ep) : BitVec 4 := mask &&& ~~~epBit n

/-- Whether the bit of an endpoint is set. -/
def testEpBit (mask : BitVec 4) (n : Ep) : Bool := mask &&& epBit n != 0#4

/-! ## Staging buffers (R28) -/

/-- The IN staging buffer of an endpoint. -/
def inBuf : Ep → BufId
  | .ep0 => .ep0In
  | .ep1 => .epIn1
  | .ep2 => .epIn2
  | .ep3 => .epIn3

/-- The OUT staging buffer of an endpoint. -/
def outBuf : Ep → BufId
  | .ep0 => .ep0Out
  | .ep1 => .epOut1
  | .ep2 => .epOut2
  | .ep3 => .epOut3

/-- The capacity of a buffer in bytes (R28). -/
def capacity : BufId → Nat
  | .ep0In => Config.ctrlInBuf
  | .ep0Out => 64
  | .epIn1 => Config.intPkt
  | .epOut1 => Config.intPkt
  | .epIn2 => 64
  | .epOut2 => 64
  | .epIn3 => 64
  | .epOut3 => 64

/-- The place of a buffer in the list of R28. -/
def bufNum : BufId → Nat
  | .ep0In => 0
  | .ep0Out => 1
  | .epIn1 => 2
  | .epOut1 => 3
  | .epIn2 => 4
  | .epOut2 => 5
  | .epIn3 => 6
  | .epOut3 => 7

/-- The key of a buffer's first byte in `State.mem`: the buffers one after another (log 12). -/
def bufBase : BufId → Nat
  | .ep0In => 0
  | .ep0Out => 256
  | .epIn1 => 320
  | .epOut1 => 336
  | .epIn2 => 352
  | .epOut2 => 416
  | .epIn3 => 480
  | .epOut3 => 544

/-- The number of keys: the sum of the capacities. -/
def memSize : Nat := 608

/-- The key of byte `off` of a buffer; used only with `off < capacity buf`. -/
def bufKey (buf : BufId) (off : Nat) : Nat := bufBase buf + off

/-- Whether byte `off` of `buf` lies in the region of a transfer. -/
def inRegion (t : Transfer) (buf : BufId) (off : Nat) : Bool :=
  decide (t.buf = buf) && decide (t.off.toNat ≤ off) && decide (off < t.off.toNat + t.cnt.toNat)

/-! ## The setup packet in the registers, and payloads -/

/-- The packet the setup field registers hold (R80, R115, R64). -/
def SetupRegs.packet (r : SetupRegs) : SetupPacket :=
  ⟨r.bmRequestType, r.bRequest, r.wValueL, r.wValueH, ofLe16 r.wIndexL r.wIndexH, ofLe16 r.wLengthL r.wLengthH⟩

/-- The line-coding payload (R92, R171): `lineState` is not part of it. -/
def lineCodingBytes (l : LineInfo) : List Byte := le32 l.baudRate ++ [l.charFormat, l.parityType, l.dataBits]

/-- The line information after a line-coding payload (R92, R175); bytes past the seventh are ignored. -/
def lineFromBytes (l : LineInfo) : List Byte → LineInfo
  | p0 :: p1 :: p2 :: p3 :: p4 :: p5 :: p6 :: _ =>
    { l with baudRate := ofLe32 p0 p1 p2 p3, charFormat := p4, parityType := p5, dataBits := p6 }
  | _ => l

/-- The operand of SET_CONTROL_LINE_STATE: bits 1:0 of `valueLow` (R94). -/
def lineStateOf (valueLow : Byte) : BitVec 2 := valueLow.extractLsb' 0 2

/-- DTR: bit 0 of the line state (R23, R248). -/
def dtrBit (l : LineInfo) : Bool := l.lineState.getLsbD 0

/-- RTS: bit 1 of the line state (R23, R249). -/
def rtsBit (l : LineInfo) : Bool := l.lineState.getLsbD 1

end Sys2Proof.Machine
end

