-- ==== Sys2Proof/Machine/Flags.lean ====
section
/-! DEFINITION. Flags: the event flags, write-1-to-clear, the status bits of EPDATASTATUS, the interrupt line. -/

namespace Sys2Proof.Machine

/-- The value of an event flag. -/
def Events.get (e : Events) : EventFlag → Bool
  | .usbEvent => e.usbEvent
  | .ep0Setup => e.ep0Setup
  | .ep0DataDone => e.ep0DataDone
  | .epData => e.epData
  | .endEpOut n => e.endEpOut.get n
  | .endEpIn n => e.endEpIn.get n

/-- An event flag written: by hardware to 1, by `clear(EVT)` to 0 (R12, R32). -/
def Events.set (e : Events) (f : EventFlag) (v : Bool) : Events :=
  match f with
  | .usbEvent => { e with usbEvent := v }
  | .ep0Setup => { e with ep0Setup := v }
  | .ep0DataDone => { e with ep0DataDone := v }
  | .epData => { e with epData := v }
  | .endEpOut n => { e with endEpOut := e.endEpOut.set n v }
  | .endEpIn n => { e with endEpIn := e.endEpIn.set n v }

/-- A write of `v` to a write-1-to-clear register: exactly the bits set in `v` are cleared (R67). -/
def writeOneToClear (reg v : BitVec 32) : BitVec 32 := reg &&& ~~~v

/-- The bit `EPIN(n)` of EPDATASTATUS: bit n, n = 1..3 (R34). -/
def epInDone (status : BitVec 32) : Ep → Bool
  | .ep0 => false
  | .ep1 => status.getLsbD 1
  | .ep2 => status.getLsbD 2
  | .ep3 => status.getLsbD 3

/-- The bit `EPOUT(n)` of EPDATASTATUS: bit 16+n, n = 1..3 (R34). -/
def epOutDone (status : BitVec 32) : Ep → Bool
  | .ep0 => false
  | .ep1 => status.getLsbD 17
  | .ep2 => status.getLsbD 18
  | .ep3 => status.getLsbD 19

/-- EPDATASTATUS with `EPIN(n)` set (R277); endpoint 0 has no bit (R118). -/
def setEpInDone (status : BitVec 32) : Ep → BitVec 32
  | .ep0 => status
  | .ep1 => status ||| 0x00000002#32
  | .ep2 => status ||| 0x00000004#32
  | .ep3 => status ||| 0x00000008#32

/-- EPDATASTATUS with `EPOUT(n)` set (R278); endpoint 0 has no bit (R118). -/
def setEpOutDone (status : BitVec 32) : Ep → BitVec 32
  | .ep0 => status
  | .ep1 => status ||| 0x00020000#32
  | .ep2 => status ||| 0x00040000#32
  | .ep3 => status ||| 0x00080000#32

/-- The interrupt line: the OR over the eight causes of enable AND pending (R39). It is computed anew from the state, so
it is level-sensitive (D19). -/
def irqLine (r : Regs) : Bool :=
  (r.inten.usbEvent && r.events.usbEvent) || (r.inten.ep0Setup && r.events.ep0Setup)
    || (r.inten.ep0DataDone && r.events.ep0DataDone) || (r.inten.epData && r.events.epData)
    || (r.inten.endEpOut.e0 && r.events.endEpOut.e0) || (r.inten.endEpOut.e1 && r.events.endEpOut.e1)
    || (r.inten.endEpOut.e2 && r.events.endEpOut.e2) || (r.inten.endEpOut.e3 && r.events.endEpOut.e3)

end Sys2Proof.Machine
end

