-- ==== Sys2Proof/Machine/Ops.lean ====
section
/-! DEFINITION. The operations over the state that the meanings share: field writes, memory, faults, tasks, the DMA start,
the guard, interrupt entry and return, the positions of the agents, the reset hook. -/

namespace Sys2Proof.Machine

/-! ## Field writes -/

namespace State

def setCtx (s : State) (c : Ctx) : State := { s with ctx := c }
def setReg (s : State) (r : Regs) : State := { s with reg := r }
def setDma (s : State) (d : Option Transfer) : State := { s with dma := d }
def setBus (s : State) (b : Bus) : State := { s with bus := b }
def setMem (s : State) (m : Memory) : State := { s with mem := m }
def setSnap (s : State) (v : BitVec 32) : State := { s with epDataSnap := v }
def setHang (s : State) (h : Option HangKind) : State := { s with hang := h }
def setRet (s : State) (v : RetVal) : State := { s with ret := v }
def setDev (s : State) (d : DeviceState) : State := s.setCtx { s.ctx with dev := d }
def setPhase (s : State) (p : IrqPhase) : State := s.setCtx { s.ctx with irqPhase := p }
def setLine (s : State) (l : LineInfo) : State := s.setCtx { s.ctx with line := l }
def setPending (s : State) (p : Option Pending) : State := s.setCtx { s.ctx with pending := p }
def setLineCodingPending (s : State) (b : Bool) : State := s.setCtx { s.ctx with lineCodingPending := b }
def setDmaBusy (s : State) (b : Bool) : State := s.setCtx { s.ctx with dmaBusy := b }
def setFg (s : State) (p : FgPos) : State := s.setCtx { s.ctx with fg := p }
def setHandlerInstalled (s : State) (b : Bool) : State := s.setCtx { s.ctx with handlerInstalled := b }

/-- `reg.EVT` written. -/
def setEvent (s : State) (f : EventFlag) (v : Bool) : State := s.setReg { s.reg with events := s.reg.events.set f v }

/-- `emit E`: a visible event at the end of the history (R12, R43). -/
def emit (s : State) (e : HistoryEvent) : State := { s with history := s.history ++ [e] }

/-- A byte handed to the ring sink, which answers as the parameter `ringSink` says (R197). FREE VALUE (log 21). -/
def handOver (s : State) (b : Byte) : State := { s with sink := s.sink ++ [⟨b, Config.ringSink s.freeIdx b⟩] }

/-- `raise Fault(kind, info)`: the record is added to the set of faults, and the machine goes on (R12, R42, R265; log 13). -/
def raise (s : State) (r : FaultRecord) : State :=
  { s with faults := if r ∈ s.faults then s.faults else s.faults ++ [r] }

/-- Several faults, in turn. -/
def raiseAll (s : State) : List FaultRecord → State
  | [] => s
  | r :: rs => (s.raise r).raiseAll rs

/-- The counter of free values goes on (log 17). -/
def nextFree (s : State) : State := { s with freeIdx := s.freeIdx + 1 }

end State

/-! ## Memory (R28, R60) -/

namespace Memory

/-- The byte at a key, if one was written. -/
def get : Memory → Nat → Option Byte
  | [], _ => none
  | (k, b) :: m, a => if k = a then some b else get m a

/-- A byte written at a key; the keys stay strictly rising. -/
def set : Memory → Nat → Byte → Memory
  | [], a, v => [(a, v)]
  | (k, b) :: m, a, v =>
    if a < k then (a, v) :: (k, b) :: m
    else if a = k then (a, v) :: m
    else (k, b) :: set m a v

/-- Whether every key is at least `lo`, below `memSize`, and the keys strictly rise. -/
def risingFrom : Nat → Memory → Bool
  | _, [] => true
  | lo, (k, _) :: m => decide (lo ≤ k) && decide (k < memSize) && risingFrom (k + 1) m

/-- The canonical form: keys strictly rising and inside the buffers. An unlisted byte has no value, so no listed entry
equals what an unlisted one reads as. -/
def wf (m : Memory) : Bool := risingFrom 0 m

/-- Byte `off` of a buffer: nothing if no rule has written it, or if the buffer has no such byte. -/
def load (m : Memory) (buf : BufId) (off : Nat) : Option Byte :=
  if off < capacity buf then get m (bufKey buf off) else none

/-- Byte `off` of a buffer written; a byte the buffer does not have is not written. -/
def store (m : Memory) (buf : BufId) (off : Nat) (b : Byte) : Memory :=
  if off < capacity buf then set m (bufKey buf off) b else m

/-- A byte sequence written from offset `off` on. -/
def storeAll (m : Memory) (buf : BufId) (off : Nat) : List Byte → Memory
  | [] => m
  | b :: bs => storeAll (store m buf off b) buf (off + 1) bs

end Memory

/-- The value read from byte `off` of a buffer: the stored byte, or a free value if none was written (U1, log 11). -/
def peek (s : State) (buf : BufId) (off : Nat) : Byte :=
  match s.mem.load buf off with
  | some b => b
  | none => Config.freeByte s.freeIdx (bufNum buf) off

/-- The values of `n` bytes from `off` on. -/
def peekAll (s : State) (buf : BufId) (off : Nat) : Nat → List Byte
  | 0 => []
  | n + 1 => peek s buf off :: peekAll s buf (off + 1) n

/-- `UninitRead` for each of `n` bytes from `off` on that no rule has written (R265). -/
def uninitFaults (m : Memory) (buf : BufId) (off : Nat) : Nat → List FaultRecord
  | 0 => []
  | n + 1 => (if (m.load buf off).isNone then [.uninitRead buf off] else []) ++ uninitFaults m buf (off + 1) n

/-- Whether a block access to byte `off` races the DMA in flight (R72): a write to its region, or a read of the region of
an OUT transfer. -/
def races (t : Option Transfer) (write : Bool) (buf : BufId) (off : Nat) : Bool :=
  match t with
  | none => false
  | some t => (write || decide (t.dir = .dirOut)) && inRegion t buf off

/-- `BufferRace` for each of `n` bytes from `off` on that races (R72, log 14). -/
def raceFaults (t : Option Transfer) (write : Bool) (buf : BufId) (off : Nat) : Nat → List FaultRecord
  | 0 => []
  | n + 1 => (if races t write buf off then [.bufferRace buf off] else []) ++ raceFaults t write buf (off + 1) n

/-- The state after a read that meets these unwritten bytes: the faults are recorded, and the next free value is fresh. -/
def afterUninit (s : State) (rs : List FaultRecord) : State :=
  match rs with
  | [] => s
  | r :: rs => ((s.raise r).raiseAll rs).nextFree

/-- `MemRead(buf, off, n)` by the block: the bytes and the state after (R12, R72, R265). -/
def memRead (s : State) (buf : BufId) (off n : Nat) : List Byte × State :=
  (peekAll s buf off n,
    afterUninit (s.raiseAll (raceFaults s.dma false buf off n)) (uninitFaults s.mem buf off n))

/-- `MemWrite(buf, off, data)` by the block (R12, R66, R72): a racing write is recorded and still lands (log 14). -/
def memWrite (s : State) (buf : BufId) (off : Nat) (data : List Byte) : State :=
  (s.raiseAll (raceFaults s.dma true buf off data.length)).setMem (s.mem.storeAll buf off data)

/-! ## Tasks (R38, R279) -/

/-- `trigger(EP0STATUS); emit Status`: the status stage (R153). -/
def triggerStatus (s : State) : State := s.emit .status

/-- `trigger(EP0STALL); emit Stall` (R117). -/
def triggerStall (s : State) : State := s.emit .stall

/-- `trigger(EP0RCVOUT)`: the peripheral may accept the EP0 OUT data packet (R38, R279). -/
def triggerRcvOut (s : State) : State := s.setBus { s.bus with ep0RcvArmed := true }

/-- A write to `SIZE_EPOUT[n]`: the endpoint may accept the next OUT packet; the count it reads as stays the host's (R37,
R67, R279; log 18). -/
def rearmOut (s : State) (n : Ep) : State := s.setBus { s.bus with outArmed := s.bus.outArmed.set n true }

/-- The DMA pointer of a direction and endpoint. -/
def ptrOf (r : Regs) : Dir → Ep → BufRef
  | .dirIn, n => r.epInPtr.get n
  | .dirOut, n => r.epOutPtr.get n

/-- The DMA count of a direction and endpoint. -/
def maxCntOf (r : Regs) : Dir → Ep → Half
  | .dirIn, n => r.epInMaxCnt.get n
  | .dirOut, n => r.epOutMaxCnt.get n

/-- `EPIN[n].PTR` and `EPIN[n].MAXCNT` written. -/
def programIn (s : State) (n : Ep) (ref : BufRef) (cnt : Half) : State :=
  s.setReg { s.reg with epInPtr := s.reg.epInPtr.set n ref, epInMaxCnt := s.reg.epInMaxCnt.set n cnt }

/-- `EPOUT[n].PTR` and `EPOUT[n].MAXCNT` written. -/
def programOut (s : State) (n : Ep) (ref : BufRef) (cnt : Half) : State :=
  s.setReg { s.reg with epOutPtr := s.reg.epOutPtr.set n ref, epOutMaxCnt := s.reg.epOutMaxCnt.set n cnt }

/-- A DMA start, the effect of `STARTEPIN[n]` or `STARTEPOUT[n]` (R192): a second start and a region that leaves its
buffer are faults and start nothing. -/
def dmaStart (s : State) (dir : Dir) (n : Ep) : State :=
  let ref := ptrOf s.reg dir n
  let cnt := maxCntOf s.reg dir n
  match s.dma with
  | some t => s.raise (.dmaContention t dir n)
  | none =>
    if capacity ref.buf < ref.off.toNat + cnt.toNat then
      s.raise (.dmaBounds ref.buf ref.off.toNat cnt.toNat)
    else s.setDma (some ⟨dir, n, ref.buf, ref.off, cnt⟩)

/-! ## Flow inside a step -/

/-- The state a step ends in. -/
def Flow.state {α : Type} : Flow α → State
  | .go s _ => s
  | .halt s => s

/-- What comes after, unless the step has ended. -/
def Flow.andThen {α β : Type} (f : Flow α) (k : State → α → Flow β) : Flow β :=
  match f with
  | .go s a => k s a
  | .halt s => .halt s

/-- The state after a flow that returns a boolean, which is recorded in `ret` (log 7). -/
def Flow.returning : Flow Bool → State
  | .go s b => s.setRet (.bool b)
  | .halt s => s

/-! ## Reset (R290) and the reset hook (R176) -/

/-- A system reset: every piece of state at its reset value (R290). The schedule and the counter of free values are not
the machine's and go on (log 16). -/
def systemReset (s : State) : State := { State.reset with sched := s.sched, freeIdx := s.freeIdx }

/-- `checkShouldReset()`: the hook is called with the line information; it returns, or it resets the system and nothing
further of the invocation happens (R176). FREE VALUE: which of the two (log 16). -/
def checkShouldReset (s : State) : Flow Unit :=
  let l := s.ctx.line
  let after := (s.emit (.hook l)).nextFree
  if Config.resetHook s.freeIdx l.baudRate l.charFormat l.parityType l.dataBits l.lineState then
    .halt (systemReset after)
  else .go after ()

/-! ## The guard (R185 to R188) -/

/-- `exitCriticalSection()` (R188). -/
def exitCriticalSection (s : State) : State := s.setDmaBusy false

/-- `enterCriticalSection()` in interrupt context: a held flag hangs `IRQ` for ever (R187). -/
def enterCriticalSectionIrq (s : State) : Flow Unit :=
  if s.ctx.dmaBusy then .halt (s.setHang (some .irqSpinDeadlock)) else .go (s.setDmaBusy true) ()

/-! ## Interrupt entry and return (R110, R266, R267), and the positions of the agents -/

/-- Interrupt entry: control goes to phase A, and nothing of `FG` or of the context is saved or changed (R110, R266). -/
def enterIrq (s : State) : State := s.setPhase .a

/-- Interrupt return: the handler is no longer running; nothing is restored (R120, R267). -/
def leaveIrq (s : State) : State := s.setPhase .idle

/-- Whether `IRQ` stands at a phase and can step: a hung agent has no further step (R12, R187). -/
def irqAt (s : State) (p : IrqPhase) : Bool := decide (s.ctx.irqPhase = p) && s.hang.isNone

/-- Whether an invocation may start (R110). -/
def mayInvoke (s : State) : Bool := irqAt s .idle && s.ctx.handlerInstalled && irqLine s.reg

/-- Whether `FG` may step at all: not while `IRQ` is active (R250, R262), and never again after H1 (R187). -/
def fgRuns (s : State) : Bool := irqAt s .idle

/-- Whether `FG` may run a facade call: it has none in progress, or it has entered exactly this one (R29). -/
def mayCall (s : State) (op : FacadeOp) : Bool :=
  fgRuns s && (decide (s.ctx.fg = .ready) || decide (s.ctx.fg = .call op))

end Sys2Proof.Machine
end

