-- ==== Sys2Proof/Machine/EndpointIo.lean ====
section
/-! DEFINITION. 43_endpoint_io_dma.md: the packet scheduler, the OUT path, the DMA engine's step, the guard's rows. -/

namespace Sys2Proof.Machine

/-! ## The packet scheduler (IN) -/

/-- `sendViaEPIn(n, (buf, off), cnt)` (R189). -/
def sendViaEpIn (s : State) (n : Ep) (ref : BufRef) (cnt : Half) : State := dmaStart (programIn s n ref cnt) .dirIn n

/-- The control branch of `sendUSBPacket`: at most one packet now, the rest recorded as the continuation (R190). -/
def sendControl (s : State) (data : List Byte) : State :=
  if Config.ctrlInBuf < data.length then s.raise (.responseTooLong data.length)
  else if Config.maxPkt < data.length then
    sendViaEpIn
      ((memWrite s .ep0In 0 data).setPending
        (some ⟨BitVec.ofNat 16 Config.maxPkt, BitVec.ofNat 16 (data.length - Config.maxPkt)⟩))
      .ep0 ⟨.ep0In, 0#16⟩ (BitVec.ofNat 16 Config.maxPkt)
  else
    sendViaEpIn ((memWrite s .ep0In 0 data).setPending none) .ep0 ⟨.ep0In, 0#16⟩ (BitVec.ofNat 16 data.length)

/-- The other branch of `sendUSBPacket`: one packet, no splitting (R190). -/
def sendData (s : State) (n : Ep) (data : List Byte) : State :=
  if capacity (inBuf n) < data.length then s.raise (.responseTooLong data.length)
  else sendViaEpIn (memWrite s (inBuf n) 0 data) n ⟨inBuf n, 0#16⟩ (BitVec.ofNat 16 data.length)

/-- `sendUSBPacket(n, data)` (R190). -/
def sendUsbPacket (s : State) (n : Ep) (data : List Byte) : State :=
  if n = .ep0 then sendControl s data else sendData s n data

/-- `sendContinuation(off, rem)` (R191). -/
def sendContinuation (s : State) (off rem : Half) : State :=
  let cnt := min rem.toNat Config.maxPkt
  (sendViaEpIn s .ep0 ⟨.ep0In, off⟩ (BitVec.ofNat 16 cnt)).setPending
    (if rem.toNat - cnt = 0 then none else some ⟨off + BitVec.ofNat 16 cnt, rem - BitVec.ofNat 16 cnt⟩)

/-! ## The OUT path -/

/-- `startEp0OutRead()` (R193). -/
def startEp0OutRead (s : State) : State :=
  dmaStart (programOut s .ep0 ⟨.ep0Out, 0#16⟩ 64#16) .dirOut .ep0

/-- `bulkOutDone(i)` (R194): it may hang. -/
def bulkOutDone (s : State) (n : Ep) : Flow Unit :=
  (enterCriticalSectionIrq s).andThen fun s _ =>
    .go (dmaStart (programOut s n ⟨outBuf n, 0#16⟩ ((s.reg.sizeEpOut.get n).setWidth 16)) .dirOut n) ()

/-- `ringPush(b)`: the push is visible, the byte is handed to the sink, and the push completes whatever the sink does with
it (R197, D45). -/
def ringPush (s : State) (b : Byte) : State := ((s.emit (.push b)).handOver b).nextFree

/-- Bytes pushed in order, one at a time (R195). -/
def pushAll (s : State) : List Byte → State
  | [] => s
  | b :: bs => pushAll (ringPush s b) bs

/-- `bulkOutDeliver(i)` (R195). -/
def bulkOutDeliver (s : State) (n : Ep) : State :=
  let (bytes, s1) := memRead s (outBuf n) 0 (s.reg.epOutAmount.get n).toNat
  exitCriticalSection (rearmOut (pushAll s1 bytes) n)

/-! ## The DMA engine's step (R196) -/

/-- Completion of an IN transfer: the packet is loaded into the endpoint. -/
def completeIn (s : State) (t : Transfer) : State :=
  let bytes := peekAll s t.buf t.off.toNat t.cnt.toNat
  let s1 := afterUninit s (uninitFaults s.mem t.buf t.off.toNat t.cnt.toNat)
  ((s1.setBus { s1.bus with inLoaded := s1.bus.inLoaded.set t.ep (some bytes) }).setEvent (.endEpIn t.ep) true).setDma none

/-- Completion of an OUT transfer with the packet `d`: at most `cnt` bytes are kept (D39). -/
def completeOut (s : State) (t : Transfer) (d : List Byte) : State :=
  let k := min d.length t.cnt.toNat
  let s1 := s.setMem (s.mem.storeAll t.buf t.off.toNat (d.take k))
  let s2 := s1.setReg { s1.reg with epOutAmount := s1.reg.epOutAmount.set t.ep (BitVec.ofNat 16 k) }
  ((s2.setBus { s2.bus with outData := s2.bus.outData.set t.ep none }).setEvent (.endEpOut t.ep) true).setDma none

/-- The step of the `DMA` agent: not enabled without a transfer, nor for an OUT transfer without a packet (R196). -/
def dmaComplete (s : State) : State :=
  match s.dma with
  | none => s
  | some t =>
    match t.dir with
    | .dirIn => completeIn s t
    | .dirOut =>
      match s.bus.outData.get t.ep with
      | none => s
      | some d => completeOut s t d

/-! ## The meanings -/

/-- ENTER_CS, one iteration of the foreground acquisition (R186): test and set in one step, or wait. -/
def execEnterCs (s : State) : Result :=
  if fgRuns s then .next (if s.ctx.dmaBusy then s else s.setDmaBusy true) else .next s

/-- ENTER_CS_IRQ (R187). -/
def execEnterCsIrq (s : State) : Result := .next (enterCriticalSectionIrq s).state

/-- EXIT_CS (R188). -/
def execExitCs (s : State) : Result := .next (exitCriticalSection s)

/-- SEND_VIA_EP_IN (R189). -/
def execSendViaEpIn (n : Ep) (buf : BufId) (off cnt : Half) (s : State) : Result := .next (sendViaEpIn s n ⟨buf, off⟩ cnt)

/-- SEND_USB_PACKET (R190). -/
def execSendUsbPacket (n : Ep) (data : List Byte) (s : State) : Result := .next (sendUsbPacket s n data)

/-- SEND_CONTINUATION (R191). -/
def execSendContinuation (off rem : Half) (s : State) : Result := .next (sendContinuation s off rem)

/-- DMA_START (R192). -/
def execDmaStart (dir : Dir) (n : Ep) (s : State) : Result := .next (dmaStart s dir n)

/-- START_EP0_OUT_READ (R193). -/
def execStartEp0OutRead (s : State) : Result := .next (startEp0OutRead s)

/-- BULK_OUT_DONE (R194). -/
def execBulkOutDone (n : Ep) (s : State) : Result := .next (bulkOutDone s n).state

/-- BULK_OUT_DELIVER (R195). -/
def execBulkOutDeliver (n : Ep) (s : State) : Result := .next (bulkOutDeliver s n)

/-- DMA_COMPLETE (R196). -/
def execDmaComplete (s : State) : Result := .next (dmaComplete s)

/-- RING_PUSH (R197). -/
def execRingPush (b : Byte) (s : State) : Result := .next (ringPush s b)

end Sys2Proof.Machine
end

