-- ==== Sys2Proof/Machine/Descriptors.lean ====
section
/-! DEFINITION. 44_descriptors.md: the descriptors, constant byte sequences of the parameters (R236), and the selection of
GET_DESCRIPTOR. -/

namespace Sys2Proof.Machine

/-! ## The descriptors -/

/-- `DEVICE_DESC`, 18 bytes (R217). -/
def deviceDesc : List Byte :=
  [0x12#8, 0x01#8] ++ le16 0x0200#16 ++ [0xEF#8, 0x02#8, 0x01#8, BitVec.ofNat 8 Config.maxPkt] ++ le16 Config.vid
    ++ le16 Config.pid ++ le16 Config.bcdDevice ++ [0x01#8, 0x02#8, 0x03#8, 0x01#8]

/-- `CONFIG`, 9 bytes (R219); 75 is `wTotalLength` (R230). -/
def configDesc : List Byte :=
  [0x09#8, 0x02#8] ++ le16 75#16 ++ [0x02#8, 0x01#8, 0x00#8, Config.cfgAttributes, Config.cfgMaxPower]

/-- `IAD`, 8 bytes (R220). -/
def iadDesc : List Byte := [0x08#8, 0x0B#8, Config.ifCommByte, 0x02#8, 0x02#8, 0x02#8, 0x00#8, 0x00#8]

/-- `IF_COMM_DESC`, 9 bytes (R221). -/
def ifCommDesc : List Byte := [0x09#8, 0x04#8, Config.ifCommByte, 0x00#8, 0x01#8, 0x02#8, 0x02#8, 0x00#8, 0x00#8]

/-- `CDC_HEADER`, 5 bytes (R222). -/
def cdcHeader : List Byte := [0x05#8, 0x24#8, 0x00#8] ++ le16 0x0110#16

/-- `CDC_CALL_MGMT`, 5 bytes (R223). -/
def cdcCallMgmt : List Byte := [0x05#8, 0x24#8, 0x01#8, 0x01#8, Config.ifDataByte]

/-- `CDC_ACM`, 4 bytes (R224). -/
def cdcAcm : List Byte := [0x04#8, 0x24#8, 0x02#8, 0x06#8]

/-- `CDC_UNION`, 5 bytes (R225). -/
def cdcUnion : List Byte := [0x05#8, 0x24#8, 0x06#8, Config.ifCommByte, Config.ifDataByte]

/-- `EP_INT_IN_DESC`, 7 bytes (R226). -/
def epIntInDesc : List Byte :=
  [0x07#8, 0x05#8, 0x81#8, 0x03#8] ++ le16 (BitVec.ofNat 16 Config.intPkt) ++ [Config.intInterval]

/-- `IF_DATA_DESC`, 9 bytes (R227). -/
def ifDataDesc : List Byte := [0x09#8, 0x04#8, Config.ifDataByte, 0x00#8, 0x02#8, 0x0A#8, 0x00#8, 0x00#8, 0x00#8]

/-- `EP_BULK_OUT_DESC`, 7 bytes (R228). -/
def epBulkOutDesc : List Byte := [0x07#8, 0x05#8, 0x02#8, 0x02#8] ++ le16 (BitVec.ofNat 16 Config.maxPkt) ++ [0x00#8]

/-- `EP_BULK_IN_DESC`, 7 bytes (R229). -/
def epBulkInDesc : List Byte := [0x07#8, 0x05#8, 0x83#8, 0x02#8] ++ le16 (BitVec.ofNat 16 Config.maxPkt) ++ [0x00#8]

/-- `CONFIG_SET`, 75 bytes, in the order of R230. -/
def configSet : List Byte :=
  configDesc ++ iadDesc ++ ifCommDesc ++ cdcHeader ++ cdcCallMgmt ++ cdcAcm ++ cdcUnion ++ epIntInDesc ++ ifDataDesc
    ++ epBulkOutDesc ++ epBulkInDesc

/-- `STRING0`, the supported languages (R232). -/
def string0 : List Byte := [0x04#8, 0x03#8] ++ le16 0x0409#16

/-- The UTF-16LE code units of ASCII text (R233, D50). -/
def utf16 : List Byte → List Byte
  | [] => []
  | c :: cs => c :: 0x00#8 :: utf16 cs

/-- `strDesc(s)` (R233). -/
def strDesc (text : List Byte) : List Byte := [BitVec.ofNat 8 (2 + 2 * text.length), 0x03#8] ++ utf16 text

/-! ## GET_DESCRIPTOR -/

/-- `respond(sp, d)`: the descriptor cut to `sp.length` (R216). -/
def respond (s : State) (sp : SetupPacket) (d : List Byte) : Flow Bool :=
  .go (sendUsbPacket s .ep0 (d.take (min d.length sp.length.toNat))) true

/-- What GET_DESCRIPTOR answers with, by type and index (R215, R231 to R235). -/
inductive DescAnswer where
  /-- a data stage -/
  | data (d : List Byte)
  /-- the status stage alone: the serial-number string (R234) -/
  | statusOnly
  /-- refused (R231, R235) -/
  | unsupported
  deriving DecidableEq, Repr

/-- The selection of R215: it depends on the type and index alone, never on the state (R236). -/
def selectDescriptor (descType descIndex : Byte) : DescAnswer :=
  if descType = 0x01#8 then .data deviceDesc
  else if descType = 0x02#8 then .data configSet
  else if descType = 0x03#8 then
    if descIndex = 0x00#8 then .data string0
    else if descIndex = 0x01#8 then .data (strDesc Config.strManufacturer)
    else if descIndex = 0x02#8 then .data (strDesc Config.strProduct)
    else if descIndex = 0x03#8 then .statusOnly
    else .unsupported
  else .unsupported

/-- `getDescriptor(sp)` (R215). -/
def getDescriptor (s : State) (sp : SetupPacket) : Flow Bool :=
  match selectDescriptor sp.valueHigh sp.valueLow with
  | .data d => respond s sp d
  | .statusOnly => .go (triggerStatus s) true
  | .unsupported => .go s false

/-! ## The meanings -/

/-- GET_DESCRIPTOR_SELECT (R215). -/
def execGetDescriptorSelect (sp : SetupPacket) (s : State) : Result := .next (getDescriptor s sp).returning

/-- RESPOND (R216). -/
def execRespond (sp : SetupPacket) (d : List Byte) (s : State) : Result := .next (respond s sp d).returning

end Sys2Proof.Machine
end

