-- ==== Sys2Proof/Machine/ClassRequests.lean ====
section
/-! DEFINITION. 42_class_requests.md: the CDC class requests, the end of the line-coding transfer, the reset hook's row. -/

namespace Sys2Proof.Machine

/-! ## The requests -/

/-- `GET_LINE_CODING` (R171): 7 bytes whatever `sp.length` is (D23). -/
def getLineCoding (s : State) : Flow Bool := .go (sendUsbPacket s .ep0 (lineCodingBytes s.ctx.line)) true

/-- `SET_LINE_CODING` (R172): the data stage is let in; nothing is parsed yet. -/
def setLineCoding (s : State) : Flow Bool := .go (triggerRcvOut (s.setLineCodingPending true)) true

/-- `SET_CONTROL_LINE_STATE` (R173): the hook comes before the status stage, so a hook that resets ends it all. -/
def setControlLineState (s : State) (sp : SetupPacket) : Flow Bool :=
  (checkShouldReset (s.setLine { s.ctx.line with lineState := lineStateOf sp.valueLow })).andThen fun s _ =>
    .go (triggerStatus s) true

/-- `SEND_BREAK` (R174): the status stage only. -/
def sendBreak (s : State) : Flow Bool := .go (triggerStatus s) true

/-- `classRequest(sp)` (R170): vendor and reserved types and unmatched codes return false (D10). -/
def classRequest (s : State) (sp : SetupPacket) : Flow Bool :=
  if sp.typeBits = 1#2 then
    if sp.request = 0x20#8 then setLineCoding s
    else if sp.request = 0x21#8 then getLineCoding s
    else if sp.request = 0x22#8 then setControlLineState s sp
    else if sp.request = 0x23#8 then sendBreak s
    else .go s false
  else .go s false

/-! ## The end of the line-coding transfer -/

/-- `lineCodingComplete()` (R175): 7 bytes or more are parsed and the hook is called, fewer change nothing; the status stage
ends the transfer in both cases (D15, D16). -/
def lineCodingComplete (s : State) : Flow Unit :=
  let s1 := s.setLineCodingPending false
  let parsed : Flow Unit :=
    if 7 ≤ (s1.reg.epOutAmount.get .ep0).toNat then
      let (p, s2) := memRead s1 .ep0Out 0 7
      checkShouldReset (s2.setLine (lineFromBytes s2.ctx.line p))
    else .go s1 ()
  parsed.andThen fun s _ => .go (triggerStatus s) ()

/-! ## The meanings -/

/-- SET_LINE_CODING (R172). -/
def execSetLineCoding (_sp : SetupPacket) (s : State) : Result := .next (setLineCoding s).returning

/-- GET_LINE_CODING (R171). -/
def execGetLineCoding (_sp : SetupPacket) (s : State) : Result := .next (getLineCoding s).returning

/-- SET_CONTROL_LINE_STATE (R173). -/
def execSetControlLineState (sp : SetupPacket) (s : State) : Result := .next (setControlLineState s sp).returning

/-- SEND_BREAK (R174). -/
def execSendBreak (_sp : SetupPacket) (s : State) : Result := .next (sendBreak s).returning

/-- CLASS_OTHER (R177): refused; the dispatcher stalls on the value returned. -/
def execClassOther (_sp : SetupPacket) (s : State) : Result := .next (s.setRet (.bool false))

/-- CLASS_OTHER_IF (R88, R116): refused; the dispatcher stalls on the value returned. -/
def execClassOtherIf (_sp : SetupPacket) (s : State) : Result := .next (s.setRet (.bool false))

/-- VENDOR_RESERVED (R88, R116, R170): refused; the dispatcher stalls on the value returned. -/
def execVendorReserved (_sp : SetupPacket) (s : State) : Result := .next (s.setRet (.bool false))

/-- LINE_CODING_COMPLETE (R175). -/
def execLineCodingComplete (s : State) : Result := .next (lineCodingComplete s).state

/-- CHECK_SHOULD_RESET (R176). -/
def execCheckShouldReset (s : State) : Result := .next (checkShouldReset s).state

end Sys2Proof.Machine
end

