-- ==== Sys2Proof/Machine/Standard.lean ====
section
/-! DEFINITION. 41_standard_requests.md: the standard requests. A request returns true, or false for the dispatcher to stall
(R114, log 8). -/

namespace Sys2Proof.Machine

/-! ## The requests -/

/-- The halt flag a GET_STATUS reports: that of the addressed endpoint for the endpoint recipient, else 0 (R141). -/
def statusFlag (dev : DeviceState) (sp : SetupPacket) : Bool :=
  if sp.recipient = 2#5 then
    match epOfNibble sp.endpoint with
    | some n => testEpBit dev.endpointHaltFlags n
    | none => false
  else false

/-- The 2-byte reply of GET_STATUS (R93, R141). -/
def statusReply (dev : DeviceState) (sp : SetupPacket) : List Byte :=
  [if statusFlag dev sp then 0x01#8 else 0x00#8, 0x00#8]

/-- `GET_STATUS` (R141). -/
def getStatus (s : State) (sp : SetupPacket) : Flow Bool :=
  .go (sendUsbPacket s .ep0 (statusReply s.ctx.dev sp)) true

/-- The device state after `CLEAR_FEATURE` or `SET_FEATURE` with the value `v` (R142, R143, R87): selector 1 is remote
wakeup, selector 0 the halt flag of the addressed endpoint; any other changes nothing (D31). -/
def featureDev (dev : DeviceState) (sp : SetupPacket) (v : Bool) : DeviceState :=
  if sp.valueLow = 0x01#8 then { dev with remoteWakeupEnabled := v }
  else if sp.valueLow = 0x00#8 then
    match epOfNibble sp.endpoint with
    | some n =>
      { dev with
        endpointHaltFlags := if v then setEpBit dev.endpointHaltFlags n else clearEpBit dev.endpointHaltFlags n }
    | none => dev
  else dev

/-- `CLEAR_FEATURE` (R142). -/
def clearFeature (s : State) (sp : SetupPacket) : Flow Bool :=
  .go (triggerStatus (s.setDev (featureDev s.ctx.dev sp false))) true

/-- `SET_FEATURE` (R143). -/
def setFeature (s : State) (sp : SetupPacket) : Flow Bool :=
  .go (triggerStatus (s.setDev (featureDev s.ctx.dev sp true))) true

/-- `GET_CONFIGURATION` (R147). -/
def getConfiguration (s : State) : Flow Bool := .go (sendUsbPacket s .ep0 [s.ctx.dev.configurationValue]) true

/-- `initEndpoint(n)` by the direction of `ctx.epTable[n]` (R149, D61). -/
def initEndpoint (s : State) (n : Ep) : State :=
  match (s.ctx.epTable.get n).dir with
  | .dirIn => s.setReg { s.reg with epInEn := setEpBit s.reg.epInEn n }
  | .dirOut => rearmOut (s.setReg { s.reg with epOutEn := setEpBit s.reg.epOutEn n }) n
  | .bidirectional => s

/-- `SET_CONFIGURATION` (R148): recipient device only (D12). -/
def setConfiguration (s : State) (sp : SetupPacket) : Flow Bool :=
  if sp.recipient = 0#5 then
    let s1 := initEndpoint (initEndpoint (initEndpoint (triggerStatus s) .ep1) .ep2) .ep3
    .go (s1.setDev { s1.ctx.dev with configurationValue := sp.valueLow }) true
  else .go s false

/-- `GET_INTERFACE` (R150). -/
def getInterface (s : State) : Flow Bool := .go (sendUsbPacket s .ep0 [s.ctx.dev.alternateInterface]) true

/-- `SET_INTERFACE` (R151). -/
def setInterface (s : State) (sp : SetupPacket) : Flow Bool :=
  .go (triggerStatus (s.setDev { s.ctx.dev with alternateInterface := sp.valueLow })) true

/-- `standardRequest(sp)` (R140): selection by the request code alone. -/
def standardRequest (s : State) (sp : SetupPacket) : Flow Bool :=
  if sp.request = 0x00#8 then getStatus s sp
  else if sp.request = 0x01#8 then clearFeature s sp
  else if sp.request = 0x03#8 then setFeature s sp
  else if sp.request = 0x05#8 then .go s true
  else if sp.request = 0x06#8 then getDescriptor s sp
  else if sp.request = 0x07#8 then .go s false
  else if sp.request = 0x08#8 then getConfiguration s
  else if sp.request = 0x09#8 then setConfiguration s sp
  else if sp.request = 0x0A#8 then getInterface s
  else if sp.request = 0x0B#8 then setInterface s sp
  else .go s true

/-! ## The meanings -/

/-- GET_STATUS (R141). -/
def execGetStatus (sp : SetupPacket) (s : State) : Result := .next (getStatus s sp).returning

/-- CLEAR_FEATURE (R142). -/
def execClearFeature (sp : SetupPacket) (s : State) : Result := .next (clearFeature s sp).returning

/-- SET_FEATURE (R143). -/
def execSetFeature (sp : SetupPacket) (s : State) : Result := .next (setFeature s sp).returning

/-- SET_ADDRESS (R144): succeeds with no action and no task (D53); the packet is not read. -/
def execSetAddress (_sp : SetupPacket) (s : State) : Result := .next (s.setRet (.bool true))

/-- GET_DESCRIPTOR (R145). -/
def execGetDescriptor (sp : SetupPacket) (s : State) : Result := .next (getDescriptor s sp).returning

/-- SET_DESCRIPTOR (R146): always fails; the dispatcher stalls on the value returned. -/
def execSetDescriptor (_sp : SetupPacket) (s : State) : Result := .next (s.setRet (.bool false))

/-- GET_CONFIGURATION (R147). -/
def execGetConfiguration (_sp : SetupPacket) (s : State) : Result := .next (getConfiguration s).returning

/-- SET_CONFIGURATION (R148). -/
def execSetConfiguration (sp : SetupPacket) (s : State) : Result := .next (setConfiguration s sp).returning

/-- GET_INTERFACE (R150). -/
def execGetInterface (_sp : SetupPacket) (s : State) : Result := .next (getInterface s).returning

/-- SET_INTERFACE (R151). -/
def execSetInterface (sp : SetupPacket) (s : State) : Result := .next (setInterface s sp).returning

/-- STD_OTHER (R152, C1): accepted with no payload and no task (D54). -/
def execStdOther (_sp : SetupPacket) (s : State) : Result := .next (s.setRet (.bool true))

/-- STATUS_STAGE (R153). -/
def execStatusStage (s : State) : Result := .next (triggerStatus s)

/-- INIT_ENDPOINT (R149). -/
def execInitEndpoint (n : Ep) (s : State) : Result := .next (initEndpoint s n)

end Sys2Proof.Machine
end

