-- ==== Sys2Proof/Machine/Dispatcher.lean ====
section
/-! DEFINITION. 40_dispatcher.md: the interrupt dispatcher, one phase a step. An event whose phase is not the dispatcher's
position is not enabled and changes nothing (log 2). -/

namespace Sys2Proof.Machine

/-! ## Phase A: bus-ready (R112) -/

/-- `initControlEndpoint()` (R112). -/
def initControlEndpoint (s : State) : State :=
  s.setReg { s.reg with epInEn := setEpBit s.reg.epInEn .ep0, epOutEn := setEpBit s.reg.epOutEn .ep0 }

/-- What a latched READY does: endpoint 0 and the pullup on, DeviceState unconfigured, both transfer flags dropped (R112,
R292, D21); LineInfo and the guard stay (D52). -/
def busReady (s : State) : State :=
  let s1 := initControlEndpoint (s.setReg { s.reg with eventCause := { s.reg.eventCause with ready := false } })
  let s2 := s1.setReg { s1.reg with usbPullup := true }
  ((s2.setDev .unconfigured).setPending none).setLineCodingPending false

/-- Phase A up to its end. -/
def phaseA (s : State) : State :=
  if s.reg.events.usbEvent then
    let s1 := s.setEvent .usbEvent false
    if s1.reg.eventCause.ready then busReady s1 else s1
  else s

/-! ## Phase B: EP0 data-done (R113) -/

/-- The three branches of phase B, in their order (D17). -/
def dataDone (s : State) : State :=
  if s.ctx.lineCodingPending then startEp0OutRead s
  else
    match s.ctx.pending with
    | some p => sendContinuation s p.offset p.remaining
    | none => triggerStatus s

/-- Phase B up to its end. -/
def phaseB (s : State) : State :=
  if s.reg.events.ep0DataDone then dataDone (s.setEvent .ep0DataDone false) else s

/-! ## Phase C: EP0 setup (R114 to R117) -/

/-- `dispatchSetup(sp)` (R116). -/
def dispatchSetup (s : State) (sp : SetupPacket) : Flow Bool :=
  if sp.typeBits = 0#2 then standardRequest s sp
  else if sp.index = Config.ifComm then classRequest s sp
  else .go s false

/-- What phase C does with a setup: an outstanding transfer is abandoned (D22), the packet is dispatched, and a request that
returns false is stalled (R114). -/
def handleSetup (s : State) : Flow Unit :=
  let s1 := (s.setEvent .ep0Setup false)
  let sp := s1.reg.setup.packet
  (dispatchSetup ((s1.setPending none).setLineCodingPending false) sp).andThen fun s ok =>
    .go (if ok then s else triggerStall s) ()

/-- Phase C up to its end. -/
def phaseC (s : State) : Flow Unit := if s.reg.events.ep0Setup then handleSetup s else .go s ()

/-! ## Phase D: per-endpoint data (R118) -/

/-- The entry of D(1): the snapshot `s` of EPDATASTATUS is taken, and its bits are cleared. -/
def latchEpData (s : State) : State :=
  if s.reg.events.epData then
    let s1 := s.setEvent .epData false
    let v := s1.reg.epDataStatus
    (s1.setReg { s1.reg with epDataStatus := writeOneToClear v v }).setSnap v
  else s.setSnap 0#32

/-- D(i) for endpoint i: the OUT-done bit before the IN-done bit (R118, R264); a bit for a direction the endpoint does not
have is ignored (D38). -/
def handleEpData (s : State) (n : Ep) : Flow Unit :=
  let outDone : Flow Unit :=
    if epOutDone s.epDataSnap n && decide ((s.ctx.epTable.get n).dir = .dirOut) then bulkOutDone s n else .go s ()
  outDone.andThen fun s1 _ =>
    .go (if epInDone s1.epDataSnap n && decide ((s1.ctx.epTable.get n).dir = .dirIn) then exitCriticalSection s1 else s1)
      ()

/-! ## Phase E: end of OUT (R119) -/

/-- Phase E(i) up to its end: the line-coding data on endpoint 0, bulk data on endpoint 2. -/
def phaseE (s : State) (n : Ep) : Flow Unit :=
  if s.reg.events.endEpOut.get n then
    let s1 := s.setEvent (.endEpOut n) false
    let control : Flow Unit := if n = .ep0 ∧ s1.ctx.lineCodingPending then lineCodingComplete s1 else .go s1 ()
    control.andThen fun s2 _ => .go (if n = .ep2 then bulkOutDeliver s2 n else s2) ()
  else .go s ()

/-- A phase that ends moves the dispatcher on; one that does not (a reset, a hang) leaves it where it is. -/
def Flow.thenPhase (f : Flow Unit) (p : IrqPhase) : State := (f.andThen fun s _ => .go (s.setPhase p) ()).state

/-! ## The meanings -/

/-- IRQ_INVOKE (R110, R266). -/
def execIrqInvoke (s : State) : Result := if mayInvoke s then .next (enterIrq s) else .next s

/-- EV_READY, phase A (R112). -/
def execEvReady (s : State) : Result := if irqAt s .a then .next ((phaseA s).setPhase .b) else .next s

/-- EV_EP0DATADONE, phase B (R113). -/
def execEvEp0DataDone (s : State) : Result := if irqAt s .b then .next ((phaseB s).setPhase .c) else .next s

/-- EV_EP0SETUP, phase C (R114). -/
def execEvEp0Setup (s : State) : Result := if irqAt s .c then .next ((phaseC s).thenPhase .d1) else .next s

/-- EV_EPDATA, the phases D(1), D(2), D(3) (R118); the snapshot ends with D(3) (log 19). -/
def execEvEpData (s : State) : Result :=
  if irqAt s .d1 then .next ((handleEpData (latchEpData s) .ep1).thenPhase .d2)
  else if irqAt s .d2 then .next ((handleEpData s .ep2).thenPhase .d3)
  else if irqAt s .d3 then
    .next (((handleEpData s .ep3).andThen fun s _ => .go (s.setSnap 0#32) ()).thenPhase .e0)
  else .next s

/-- EV_ENDEPOUT0, phase E(0) (R119). -/
def execEvEndEpOut0 (s : State) : Result := if irqAt s .e0 then .next ((phaseE s .ep0).thenPhase .e1) else .next s

/-- EV_ENDEPOUT1, phase E(1) (R119). -/
def execEvEndEpOut1 (s : State) : Result := if irqAt s .e1 then .next ((phaseE s .ep1).thenPhase .e2) else .next s

/-- EV_ENDEPOUT2, phase E(2) (R119). -/
def execEvEndEpOut2 (s : State) : Result := if irqAt s .e2 then .next ((phaseE s .ep2).thenPhase .e3) else .next s

/-- EV_ENDEPOUT3, phase E(3), and the interrupt return (R119, R120, R267). -/
def execEvEndEpOut3 (s : State) : Result :=
  if irqAt s .e3 then .next ((phaseE s .ep3).andThen fun s _ => .go (leaveIrq s) ()).state else .next s

/-- DECODE_SETUP (R115): the packet of the setup registers is returned. -/
def execDecodeSetup (s : State) : Result := .next (s.setRet (.packet s.reg.setup.packet))

/-- DISPATCH_SETUP (R116). -/
def execDispatchSetup (sp : SetupPacket) (s : State) : Result := .next (dispatchSetup s sp).returning

/-- STALL_EP0 (R117). -/
def execStallEp0 (s : State) : Result := .next (triggerStall s)

end Sys2Proof.Machine
end

