-- ==== Sys2Proof/Machine/Facade.lean ====
section
/-! DEFINITION. 45_facade.md: the facade calls, run by `FG`. A call is not enabled while `IRQ` is active or another call is in
progress, and then changes nothing (R250, R262, log 2). -/

namespace Sys2Proof.Machine

/-- All eight causes (R245, D41). -/
def allCauses : Causes := ⟨true, true, true, true, .all true⟩

/-- `Configure()` (R245): the pullup is left alone. -/
def configure (s : State) : State :=
  (s.setReg { s.reg with enable := true, inten := allCauses }).setHandlerInstalled true

/-- The rest of `WriteByte(b)` once the guard is free: it is taken, and one packet of one byte is started (R246). -/
def acquireAndSend (s : State) (b : Byte) : State :=
  sendViaEpIn (memWrite (s.setDmaBusy true) .epIn3 0 [b]) .ep3 ⟨.epIn3, 0#16⟩ 1#16

/-- A facade call ends: `FG` has no call in progress. -/
def callEnds (s : State) : State := s.setFg .ready

/-- `WriteByte(b)` (R246): nothing while neither DTR nor RTS is set; else one iteration of the acquisition (R186). -/
def writeByte (s : State) (b : Byte) : State :=
  if s.ctx.line.lineState = 0#2 then (callEnds s).setRet .success
  else if s.ctx.dmaBusy then s.setFg (.spin b)
  else (callEnds (acquireAndSend s b)).setRet .success

/-- One more iteration of a spinning `WriteByte(b)` (R247, R186). -/
def spinStep (s : State) (b : Byte) : State :=
  if s.ctx.dmaBusy then s else (callEnds (acquireAndSend s b)).setRet .success

/-! ## The meanings -/

/-- CONFIGURE (R245). -/
def execConfigure (s : State) : Result := if mayCall s .configure then .next (callEnds (configure s)) else .next s

/-- WRITE_BYTE (R246). -/
def execWriteByte (b : Byte) (s : State) : Result :=
  if mayCall s (.writeByte b) then .next (writeByte s b) else .next s

/-- WRITE_BYTE_SPIN (R247): a step of the `WriteByte` in progress, if there is one. -/
def execWriteByteSpin (s : State) : Result :=
  match s.ctx.fg with
  | .spin b => if fgRuns s then .next (spinStep s b) else .next s
  | .ready => .next s
  | .call _ => .next s

/-- DTR (R248). -/
def execDtr (s : State) : Result :=
  if mayCall s .dtr then .next ((callEnds s).setRet (.bool (dtrBit s.ctx.line))) else .next s

/-- RTS (R249). -/
def execRts (s : State) : Result :=
  if mayCall s .rts then .next ((callEnds s).setRet (.bool (rtsBit s.ctx.line))) else .next s

end Sys2Proof.Machine
end

