-- ==== Sys2Proof/Machine/Dispatch.lean ====
section
/-! DEFINITION. The dispatch: one arm per constructor of Instr, each one direct call of its meaning. -/

namespace Sys2Proof.Machine

def exec (i : Instr) (s : State) : Host.Outcome State Fault Refusal :=
  match i with
  | .getStatus sp => Sys2Proof.Machine.execGetStatus sp s
  | .clearFeature sp => Sys2Proof.Machine.execClearFeature sp s
  | .setFeature sp => Sys2Proof.Machine.execSetFeature sp s
  | .setAddress sp => Sys2Proof.Machine.execSetAddress sp s
  | .getDescriptor sp => Sys2Proof.Machine.execGetDescriptor sp s
  | .setDescriptor sp => Sys2Proof.Machine.execSetDescriptor sp s
  | .getConfiguration sp => Sys2Proof.Machine.execGetConfiguration sp s
  | .setConfiguration sp => Sys2Proof.Machine.execSetConfiguration sp s
  | .getInterface sp => Sys2Proof.Machine.execGetInterface sp s
  | .setInterface sp => Sys2Proof.Machine.execSetInterface sp s
  | .stdOther sp => Sys2Proof.Machine.execStdOther sp s
  | .setLineCoding sp => Sys2Proof.Machine.execSetLineCoding sp s
  | .getLineCoding sp => Sys2Proof.Machine.execGetLineCoding sp s
  | .setControlLineState sp => Sys2Proof.Machine.execSetControlLineState sp s
  | .sendBreak sp => Sys2Proof.Machine.execSendBreak sp s
  | .classOther sp => Sys2Proof.Machine.execClassOther sp s
  | .classOtherIf sp => Sys2Proof.Machine.execClassOtherIf sp s
  | .vendorReserved sp => Sys2Proof.Machine.execVendorReserved sp s
  | .irqInvoke => Sys2Proof.Machine.execIrqInvoke s
  | .evReady => Sys2Proof.Machine.execEvReady s
  | .evEp0DataDone => Sys2Proof.Machine.execEvEp0DataDone s
  | .evEp0Setup => Sys2Proof.Machine.execEvEp0Setup s
  | .evEpData => Sys2Proof.Machine.execEvEpData s
  | .evEndEpOut0 => Sys2Proof.Machine.execEvEndEpOut0 s
  | .evEndEpOut1 => Sys2Proof.Machine.execEvEndEpOut1 s
  | .evEndEpOut2 => Sys2Proof.Machine.execEvEndEpOut2 s
  | .evEndEpOut3 => Sys2Proof.Machine.execEvEndEpOut3 s
  | .configure => Sys2Proof.Machine.execConfigure s
  | .writeByte b => Sys2Proof.Machine.execWriteByte b s
  | .writeByteSpin => Sys2Proof.Machine.execWriteByteSpin s
  | .dtr => Sys2Proof.Machine.execDtr s
  | .rts => Sys2Proof.Machine.execRts s
  | .decodeSetup => Sys2Proof.Machine.execDecodeSetup s
  | .dispatchSetup sp => Sys2Proof.Machine.execDispatchSetup sp s
  | .stallEp0 => Sys2Proof.Machine.execStallEp0 s
  | .statusStage => Sys2Proof.Machine.execStatusStage s
  | .initEndpoint n => Sys2Proof.Machine.execInitEndpoint n s
  | .lineCodingComplete => Sys2Proof.Machine.execLineCodingComplete s
  | .checkShouldReset => Sys2Proof.Machine.execCheckShouldReset s
  | .getDescriptorSelect sp => Sys2Proof.Machine.execGetDescriptorSelect sp s
  | .respond sp d => Sys2Proof.Machine.execRespond sp d s
  | .enterCs => Sys2Proof.Machine.execEnterCs s
  | .enterCsIrq => Sys2Proof.Machine.execEnterCsIrq s
  | .exitCs => Sys2Proof.Machine.execExitCs s
  | .sendViaEpIn n buf off cnt => Sys2Proof.Machine.execSendViaEpIn n buf off cnt s
  | .sendUsbPacket n data => Sys2Proof.Machine.execSendUsbPacket n data s
  | .sendContinuation off rem => Sys2Proof.Machine.execSendContinuation off rem s
  | .dmaStart dir n => Sys2Proof.Machine.execDmaStart dir n s
  | .startEp0OutRead => Sys2Proof.Machine.execStartEp0OutRead s
  | .bulkOutDone n => Sys2Proof.Machine.execBulkOutDone n s
  | .bulkOutDeliver n => Sys2Proof.Machine.execBulkOutDeliver n s
  | .dmaComplete => Sys2Proof.Machine.execDmaComplete s
  | .ringPush b => Sys2Proof.Machine.execRingPush b s

end Sys2Proof.Machine
end

