-- ==== Sys2Proof/Machine/Fetch.lean ====
section
/-! DEFINITION. What an agent's next operation is, read off its position (R13: the control position is a phase, not a pc),
the entry of a facade call, and the position a table word's operation runs from. -/

namespace Sys2Proof.Machine

/-- The next operation of `IRQ`: the event its phase polls; an invocation from `Idle` (R22, R110). -/
def irqOperation : IrqPhase → Instr
  | .idle => .irqInvoke
  | .a => .evReady
  | .b => .evEp0DataDone
  | .c => .evEp0Setup
  | .d1 => .evEpData
  | .d2 => .evEpData
  | .d3 => .evEpData
  | .e0 => .evEndEpOut0
  | .e1 => .evEndEpOut1
  | .e2 => .evEndEpOut2
  | .e3 => .evEndEpOut3

/-- The operation of a facade call. -/
def facadeOperation : FacadeOp → Instr
  | .configure => .configure
  | .writeByte b => .writeByte b
  | .dtr => .dtr
  | .rts => .rts

/-- The next operation of `FG`: the call it has entered, an iteration of its spin, or none (R29, R247). -/
def fgOperation : FgPos → Option Instr
  | .ready => none
  | .call op => some (facadeOperation op)
  | .spin _ => some .writeByteSpin

/-- A caller enters a facade call: enabled while `FG` may step and has no call in progress (R29, R262, log 24). -/
def enterCall (s : State) (op : FacadeOp) : State :=
  if fgRuns s && decide (s.ctx.fg = .ready) then s.setFg (.call op) else s

/-- The record a turn runs, if it runs one. -/
def turnRecord (s : State) : Turn → Option (Format × List Byte)
  | .irq => some ((irqOperation s.ctx.irqPhase).format, encode (irqOperation s.ctx.irqPhase))
  | .fg => (fgOperation s.ctx.fg).map fun i => (i.format, encode i)
  | .dma => some (Format.call, encode .dmaComplete)
  | .record fmt bytes => some (fmt, bytes)
  | .call _ => none
  | .host _ => none
  | .systemReset => none

/-- The position from which an operation is its agent's next step (log 4): the phase that polls an event; for an invocation
an enabled pending cause and an installed handler; for a spin iteration a `WriteByte` in progress; for the DMA step a
transfer in flight (of no bytes). Every other operation runs from any position. -/
def positionFor (s : State) : Instr → State
  | .irqInvoke =>
    ((s.setReg { s.reg with inten := { s.reg.inten with usbEvent := true } }).setEvent .usbEvent true).setHandlerInstalled
      true
  | .evReady => s.setPhase .a
  | .evEp0DataDone => s.setPhase .b
  | .evEp0Setup => s.setPhase .c
  | .evEpData => s.setPhase .d1
  | .evEndEpOut0 => s.setPhase .e0
  | .evEndEpOut1 => s.setPhase .e1
  | .evEndEpOut2 => s.setPhase .e2
  | .evEndEpOut3 => s.setPhase .e3
  | .writeByteSpin => s.setFg (.spin 0#8)
  | .dmaComplete => s.setDma (some ⟨.dirIn, .ep0, .ep0In, 0#16, 0#16⟩)
  | _ => s

end Sys2Proof.Machine
end

