-- ==== Sys2Proof/Machine/HostAgent.lean ====
section
/-! DEFINITION. 60_exceptions.md R275 to R278: the steps of the `HOST` agent, inputs of the model. A step that is not enabled
changes nothing (log 2). -/

namespace Sys2Proof.Machine

/-- `HOST ready` (R275). -/
def hostReady (s : State) : State :=
  if s.reg.enable then
    let s1 := s.setBus
      { ready := true
        inLoaded := .all none
        outData := .all none
        outArmed := .all false
        ep0RcvArmed := false }
    let s2 := s1.setEvent .usbEvent true
    s2.setReg { s2.reg with eventCause := { s2.reg.eventCause with ready := true } }
  else s

/-- `HOST setup b0 .. b7` (R276). -/
def hostSetup (s : State) (r : SetupRegs) : State :=
  if s.reg.enable && s.reg.usbPullup && s.bus.ready then
    let s1 := s.setReg { s.reg with setup := r }
    let s2 := s1.setBus
      { s1.bus with
        inLoaded := s1.bus.inLoaded.set .ep0 none
        outData := s1.bus.outData.set .ep0 none
        ep0RcvArmed := false }
    s2.setEvent .ep0Setup true
  else s

/-- The event an IN packet taken on an endpoint raises (R277). -/
def markInDone (s : State) (n : Ep) : State :=
  if n = .ep0 then s.setEvent .ep0DataDone true
  else (s.setReg { s.reg with epDataStatus := setEpInDone s.reg.epDataStatus n }).setEvent .epData true

/-- `HOST in n` (R277). -/
def hostTakeIn (s : State) (n : Ep) : State :=
  match s.bus.inLoaded.get n with
  | none => s
  | some p =>
    if testEpBit s.reg.epInEn n && s.reg.usbPullup then
      let s1 := s.emit (.tx n p)
      markInDone (s1.setBus { s1.bus with inLoaded := s1.bus.inLoaded.set n none }) n
    else s

/-- `HOST out 0 d` (R278). -/
def hostOutControl (s : State) (d : List Byte) : State :=
  if s.bus.ep0RcvArmed then
    (s.setBus { s.bus with outData := s.bus.outData.set .ep0 (some d), ep0RcvArmed := false }).setEvent .ep0DataDone true
  else s

/-- `HOST out n d` for n = 1..3 (R278). -/
def hostOutData (s : State) (n : Ep) (d : List Byte) : State :=
  if testEpBit s.reg.epOutEn n && s.bus.outArmed.get n then
    let s1 := s.setBus
      { s.bus with outData := s.bus.outData.set n (some d), outArmed := s.bus.outArmed.set n false }
    (s1.setReg
      { s1.reg with
        sizeEpOut := s1.reg.sizeEpOut.set n (BitVec.ofNat 8 d.length)
        epDataStatus := setEpOutDone s1.reg.epDataStatus n }).setEvent .epData true
  else s

/-- `HOST out n d`, with `len(d) <= 64` (R278). -/
def hostSendOut (s : State) (n : Ep) (d : List Byte) : State :=
  if 64 < d.length then s
  else if n = .ep0 then hostOutControl s d
  else hostOutData s n d

/-- A step of `HOST`. -/
def hostStep (s : State) : HostStep → State
  | .ready => hostReady s
  | .setup b0 b1 b2 b3 b4 b5 b6 b7 => hostSetup s ⟨b0, b1, b2, b3, b4, b5, b6, b7⟩
  | .takeIn n => hostTakeIn s n
  | .sendOut n d => hostSendOut s n d

end Sys2Proof.Machine
end

