-- ==== Sys2Proof/Machine/Step.lean ====
section
/-! DEFINITION. The step: the first turn of the schedule is taken (R10, log 1). -/

namespace Sys2Proof.Machine

/-- A record decoded and run; one that names no row stops the machine by name. -/
def runRecord (s : State) (fmt : Format) (bytes : List Byte) : Host.Outcome State Fault Refusal :=
  match decode fmt bytes with
  | .ok i => exec i s
  | .error e => .fault (.badRecord e)

/-- A turn taken, with the schedule already past it. A turn whose agent has no step changes nothing (log 2). -/
def takeTurn (s : State) (t : Turn) : Host.Outcome State Fault Refusal :=
  match turnRecord s t with
  | some (fmt, bytes) => runRecord s fmt bytes
  | none =>
    match t with
    | .call op => .next (enterCall s op)
    | .host h => .next (hostStep s h)
    | .systemReset => .next (systemReset s)
    | .fg => .next s
    | .irq => .next s
    | .dma => .next s
    | .record _ _ => .next s

/-- One step. With no turn left no agent moves. -/
def step (s : State) : Host.Outcome State Fault Refusal :=
  match s.sched with
  | [] => .next s
  | t :: rest => takeTurn { s with sched := rest } t

/-- The state in which a table word's operation is the next turn, at the position it runs from (log 4, log 5). -/
def State.withFetchWord (s : State) (nbits w : Nat) : State :=
  let r := tableRecord nbits w
  let s1 := match decode r.1 r.2 with
    | .ok i => positionFor s i
    | .error _ => s
  { s1 with sched := .record r.1 r.2 :: s1.sched }

end Sys2Proof.Machine
end

