-- ==== Sys2Proof/Machine/Script.lean ====
section
/-! DEFINITION. The script notation of R96: each line as the turns it stands for, so that a script of the spec is a schedule. -/

namespace Sys2Proof.Machine

/-- One line of a script (R96). -/
inductive ScriptLine where
  | hostReady
  | hostSetup (b0 b1 b2 b3 b4 b5 b6 b7 : Byte)
  | hostIn (n : Ep)
  | hostOut (n : Ep) (d : List Byte)
  | dma
  | irq
  | fgCall (op : FacadeOp)
  | fgSpin
  | controlIn (b0 b1 b2 b3 b4 b5 b6 b7 : Byte) (len : Nat)
  | controlNoData (b0 b1 b2 b3 b4 b5 b6 b7 : Byte)
  deriving DecidableEq, Repr

/-- `IRQ`: one whole invocation, the entry and the ten phases (R110). -/
def wholeInvocation : List Turn := List.replicate 11 .irq

/-- One packet of a control response: `IRQ`, `DMA`, `HOST in 0`. -/
def controlPacket : List Turn := wholeInvocation ++ [.dma, .host (.takeIn .ep0)]

/-- The number of packets of a response of `len` bytes; an empty response is one empty packet (R190). -/
def packetCount (len : Nat) : Nat := max 1 ((len + 63) / 64)

/-- The turns of a line. -/
def ScriptLine.turns : ScriptLine → List Turn
  | .hostReady => [.host .ready]
  | .hostSetup b0 b1 b2 b3 b4 b5 b6 b7 => [.host (.setup b0 b1 b2 b3 b4 b5 b6 b7)]
  | .hostIn n => [.host (.takeIn n)]
  | .hostOut n d => [.host (.sendOut n d)]
  | .dma => [.dma]
  | .irq => wholeInvocation
  | .fgCall op => [.call op, .fg]
  | .fgSpin => [.fg]
  | .controlIn b0 b1 b2 b3 b4 b5 b6 b7 len =>
    .host (.setup b0 b1 b2 b3 b4 b5 b6 b7)
      :: ((List.replicate (packetCount len) controlPacket).flatten ++ wholeInvocation)
  | .controlNoData b0 b1 b2 b3 b4 b5 b6 b7 => .host (.setup b0 b1 b2 b3 b4 b5 b6 b7) :: wholeInvocation

/-- A whole script as a schedule. -/
def scriptTurns (lines : List ScriptLine) : List Turn := lines.flatMap ScriptLine.turns

end Sys2Proof.Machine
end

