-- ==== Sys2Proof/Safety.lean ====
section
/-! DEFINITION. What counts as a safe run (R265): no fault recorded and no hang of either kind; runs of the agents, the weak
fairness of `DMA` and host duties as premises (R280); the invariant. -/

namespace Sys2Proof.Machine

/-! ## Runs (R10, R280) -/

/-- A turn of one of the four agents: no system reset from outside, and no operation run by itself (log 6). A caller that
enters a facade call is `FG`'s. -/
def agentTurn : Turn → Bool
  | .irq => true
  | .fg => true
  | .dma => true
  | .call _ => true
  | .host _ => true
  | .record _ _ => false
  | .systemReset => false

/-- An endless run of the agents: the states it goes through, and which agent moves at each. The host may take any step of
R275 to R278 in any order and any number of times (R280, its liberties). -/
structure Run where
  state : Nat → State
  turn : Nat → Turn
  agents : ∀ n, agentTurn (turn n) = true
  steps : ∀ n, step { state n with sched := [turn n] } = .next (state (n + 1))

/-- The step of `DMA` is enabled: a transfer is in flight and, for an OUT transfer, its packet is held (R196). -/
def dmaEnabled (s : State) : Prop :=
  ∃ x, s.dma = some x ∧ (x.dir = .dirOut → s.bus.outData.get x.ep ≠ none)

/-- Weak fairness of `DMA` (R280): whenever its step stays enabled from some point on, it is taken after that point. -/
def Run.fairToDma (r : Run) : Prop :=
  ∀ n, (∀ m, n ≤ m → dmaEnabled (r.state m)) → ∃ m, n ≤ m ∧ r.turn m = .dma

/-- A host duty: a premise on the run that a claim states where it needs it (R280). -/
abbrev HostDuty := Run → Prop

/-- No duty: the host may do as it likes (R280, "Duties: none are assumed for safety claims"). -/
def noDuty : HostDuty := fun _ => True

/-- The host takes no step: no duty is met, and no packet is ever taken (R280, its last liberty). -/
def hostSilent : HostDuty := fun r => ∀ k h, r.turn k ≠ .host h

/-- R280's own example of a duty: the host takes every packet loaded on an endpoint, so none stays loaded for ever while it
can be taken (R277). -/
def hostTakesPacketsOn (n : Ep) : HostDuty := fun r =>
  ∀ k, (∀ m, k ≤ m → (r.state m).bus.inLoaded.get n ≠ none ∧ testEpBit (r.state m).reg.epInEn n = true ∧
      (r.state m).reg.usbPullup = true) → ∃ m, k ≤ m ∧ r.turn m = .host (.takeIn n)

/-! ## Hangs and safe states (R265) -/

/-- `FG` spins, and the guard is held: a further iteration only waits (R247, R186). -/
def spins (s : State) : Prop := (∃ b, s.ctx.fg = .spin b) ∧ s.ctx.dmaBusy = true

/-- A run with the hang H2 (R265, R301): from some point on `FG` spins, and no release ever ends the spin. -/
def Run.foregroundHangs (r : Run) : Prop := ∃ n, ∀ m, n ≤ m → spins (r.state m)

/-- A state with the hang H2 (R265, R301): `FG` spins, and in every run of the agents from here that is fair to `DMA` and meets
the host duty the spin goes on for ever (log 32). DESIGN CHOICE: a system reset by the hook (R176) in such a run ends the spin,
though it is no release, so a state some run from which comes to one is no hang (log 33). -/
def ForegroundHang (duty : HostDuty) (s : State) : Prop :=
  spins s ∧ ∀ r : Run, r.state 0 = s → r.fairToDma → duty r → ∀ n, spins (r.state n)

/-- A state that may be final (R265): no model fault is recorded, `IRQ` is not hung (H1), and `FG` is not hung (H2). A state
with a fault or a hang is never final. -/
def State.safe (duty : HostDuty) (s : State) : Prop := s.faults = [] ∧ s.hang = none ∧ ¬ ForegroundHang duty s

/-! ## The invariant -/

/-- The bits of EPDATASTATUS that R34 leaves unused; they read 0. -/
def statusReserved : BitVec 32 := 0xFFF1FFF1#32

/-- The machine's invariant: what every step keeps, whatever turns the schedule holds. -/
structure Inv (s : State) : Prop where
  /-- the staging memory keeps its canonical form (log 12) -/
  memWf : s.mem.wf = true
  /-- EndpointTable is never written (R27) -/
  table : s.ctx.epTable = epTableConst
  /-- the unused bits of EPDATASTATUS read 0 (R34) -/
  status : s.reg.epDataStatus &&& statusReserved = 0#32
  /-- so do those of the snapshot of phase D (R118) -/
  snap : s.epDataSnap &&& statusReserved = 0#32
  /-- the snapshot lives in phase D only (R118) -/
  snapPhase : s.ctx.irqPhase ≠ .d2 → s.ctx.irqPhase ≠ .d3 → s.epDataSnap = 0#32
  /-- a transfer in flight stays inside its buffer (R61, R192) -/
  dmaInBounds : ∀ t, s.dma = some t → t.off.toNat + t.cnt.toNat ≤ capacity t.buf
  /-- a held OUT packet is at most 64 bytes (R278) -/
  outShort : ∀ n d, s.bus.outData.get n = some d → d.length ≤ 64
  /-- `SIZE_EPOUT[n]` reads 0..64 (R37) -/
  sizeShort : ∀ n, (s.reg.sizeEpOut.get n).toNat ≤ 64
  /-- `EPOUT[n].AMOUNT` is at most 64 (R196; at reset by log 10) -/
  amountShort : ∀ n, (s.reg.epOutAmount.get n).toNat ≤ 64
  /-- the faults are a set (R42) -/
  faultSet : s.faults.Nodup

end Sys2Proof.Machine
end

