-- ==== Sys2Proof/WellFormed.lean ====
section
/-! DEFINITION. Which terms of Instr stand for an operation of the table: a SETUP row's packet matches the row (R83, R88,
R97), INIT_ENDPOINT names a non-control endpoint (R149), and a byte sequence fits the record's length field. -/

namespace Sys2Proof

/-- The decode key of R83: `request` in bits 15:8, `requestType` in bits 7:0. -/
def SetupPacket.key (sp : SetupPacket) : Half := sp.request ++ sp.requestType

/-- `(key AND mask) = match` (R83). -/
def SetupPacket.matchesRow (sp : SetupPacket) (mask pattern : Half) : Bool := sp.key &&& mask == pattern

/-- The match values of the ten named standard rows, each under mask 0xFF60 (R83, R84). -/
def standardPatterns : List Half :=
  [0x0000#16, 0x0100#16, 0x0300#16, 0x0500#16, 0x0600#16, 0x0700#16, 0x0800#16, 0x0900#16, 0x0A00#16, 0x0B00#16]

/-- The match values of the four named class rows, each under mask 0xFF60 (R83, R85). -/
def classPatterns : List Half := [0x2020#16, 0x2120#16, 0x2220#16, 0x2320#16]

/-- A named standard row. -/
def SetupPacket.isStandard (sp : SetupPacket) (pattern : Half) : Bool := sp.matchesRow 0xFF60#16 pattern

/-- A named class row: the key matches and `index = IF_COMM` (R85, R89). -/
def SetupPacket.isClass (sp : SetupPacket) (pattern : Half) : Bool :=
  sp.matchesRow 0xFF60#16 pattern && sp.index == Config.ifComm

/-- Whether a term is an operation of the table. -/
def Instr.wellFormed : Instr → Bool
  | .getStatus sp => sp.isStandard 0x0000#16
  | .clearFeature sp => sp.isStandard 0x0100#16
  | .setFeature sp => sp.isStandard 0x0300#16
  | .setAddress sp => sp.isStandard 0x0500#16
  | .getDescriptor sp => sp.isStandard 0x0600#16
  | .setDescriptor sp => sp.isStandard 0x0700#16
  | .getConfiguration sp => sp.isStandard 0x0800#16
  | .setConfiguration sp => sp.isStandard 0x0900#16
  | .getInterface sp => sp.isStandard 0x0A00#16
  | .setInterface sp => sp.isStandard 0x0B00#16
  | .stdOther sp => sp.matchesRow 0x0060#16 0x0000#16 && !standardPatterns.any sp.isStandard
  | .setLineCoding sp => sp.isClass 0x2020#16
  | .getLineCoding sp => sp.isClass 0x2120#16
  | .setControlLineState sp => sp.isClass 0x2220#16
  | .sendBreak sp => sp.isClass 0x2320#16
  | .classOther sp =>
    sp.matchesRow 0x0060#16 0x0020#16 && sp.index == Config.ifComm && !classPatterns.any sp.isClass
  | .classOtherIf sp => sp.matchesRow 0x0060#16 0x0020#16 && sp.index != Config.ifComm
  | .vendorReserved sp => sp.matchesRow 0x0040#16 0x0040#16
  | .irqInvoke => true
  | .evReady => true
  | .evEp0DataDone => true
  | .evEp0Setup => true
  | .evEpData => true
  | .evEndEpOut0 => true
  | .evEndEpOut1 => true
  | .evEndEpOut2 => true
  | .evEndEpOut3 => true
  | .configure => true
  | .writeByte _ => true
  | .writeByteSpin => true
  | .dtr => true
  | .rts => true
  | .decodeSetup => true
  | .dispatchSetup _ => true
  | .stallEp0 => true
  | .statusStage => true
  | .initEndpoint n => n != .ep0
  | .lineCodingComplete => true
  | .checkShouldReset => true
  | .getDescriptorSelect _ => true
  | .respond _ d => d.length < 65536
  | .enterCs => true
  | .enterCsIrq => true
  | .exitCs => true
  | .sendViaEpIn _ _ _ _ => true
  | .sendUsbPacket _ data => data.length < 65536
  | .sendContinuation _ _ => true
  | .dmaStart _ _ => true
  | .startEp0OutRead => true
  | .bulkOutDone _ => true
  | .bulkOutDeliver _ => true
  | .dmaComplete => true
  | .ringPush _ => true

end Sys2Proof
end

