-- ==== Sys2Proof/Certificates/Slice0/Obligations.lean ====
section
/-! DEFINITION. The statements for the provers. A result is given as the whole next state, written as an update of the state
before, so that it states the frame as well; memory is compared through reads of one byte. -/

namespace Sys2Proof.Claims

open Sys2Proof.Machine

/-! ## Words the statements share -/

/-- `m'` is `m` with `data` written from byte `off` of `buf` on: every other byte of every buffer reads as before. -/
def Wrote (m m' : Memory) (buf : BufId) (off : Nat) (data : List Byte) : Prop :=
  ∀ b o, m'.load b o = if b = buf ∧ off ≤ o ∧ o < off + data.length then data[o - off]? else m.load b o

/-- Bytes 0 .. n-1 from `off` on of a buffer were all written, and are `data`. -/
def Holds (m : Memory) (buf : BufId) (off : Nat) (data : List Byte) : Prop :=
  ∀ j, j < data.length → m.load buf (off + j) = data[j]?

/-- `s` with a fault recorded (R42: a set). -/
def withFault (s : State) (r : FaultRecord) : State :=
  { s with faults := if r ∈ s.faults then s.faults else s.faults ++ [r] }

/-- A control response of one packet was started in `s`: the response is in the EP0 IN buffer, the DMA of all of it is in
flight, there is no continuation, and nothing else changed. -/
def SentWhole (s t : State) (data : List Byte) : Prop :=
  ∃ m, Wrote s.mem m .ep0In 0 data ∧
    t = { s with
      ctx := { s.ctx with pending := none }
      mem := m
      reg := { s.reg with
        epInPtr := { s.reg.epInPtr with e0 := ⟨.ep0In, 0#16⟩ }
        epInMaxCnt := { s.reg.epInMaxCnt with e0 := BitVec.ofNat 16 data.length } }
      dma := some ⟨.dirIn, .ep0, .ep0In, 0#16, BitVec.ofNat 16 data.length⟩ }

/-- The first 64 bytes of a longer control response were started in `s`, and the rest is the continuation. -/
def SentFirst (s t : State) (data : List Byte) : Prop :=
  ∃ m, Wrote s.mem m .ep0In 0 data ∧
    t = { s with
      ctx := { s.ctx with pending := some ⟨64#16, BitVec.ofNat 16 (data.length - 64)⟩ }
      mem := m
      reg := { s.reg with
        epInPtr := { s.reg.epInPtr with e0 := ⟨.ep0In, 0#16⟩ }
        epInMaxCnt := { s.reg.epInMaxCnt with e0 := 64#16 } }
      dma := some ⟨.dirIn, .ep0, .ep0In, 0#16, 64#16⟩ }

/-- A control response was started in `s`. -/
def Sent (s t : State) (data : List Byte) : Prop :=
  if data.length ≤ 64 then SentWhole s t data else SentFirst s t data

/-- `FG` may run the call `op`: `IRQ` is idle and not hung, and `FG` has no call in progress or has entered this one. -/
def CallMayRun (s : State) (op : FacadeOp) : Prop :=
  s.ctx.irqPhase = .idle ∧ s.hang = none ∧ (s.ctx.fg = .ready ∨ s.ctx.fg = .call op)

/-- `IRQ` stands at a phase and is not hung. -/
def AtPhase (s : State) (p : IrqPhase) : Prop := s.ctx.irqPhase = p ∧ s.hang = none

/-- The state of a system reset (R290) that keeps the schedule and the counter of free values of `s` (log 16). -/
def resetOf (s : State) : State := { State.reset with sched := s.sched, freeIdx := s.freeIdx }

/-- The setup registers' eight bytes, in the order of R80. -/
def setupBytes (r : SetupRegs) : List Byte :=
  [r.bmRequestType, r.bRequest, r.wValueL, r.wValueH, r.wIndexL, r.wIndexH, r.wLengthL, r.wLengthH]

/-- The device descriptor's bytes (R217). -/
def deviceBytes : List Byte :=
  [0x12#8, 0x01#8, 0x00#8, 0x02#8, 0xEF#8, 0x02#8, 0x01#8, 0x40#8, Config.vid.setWidth 8,
   (Config.vid >>> 8).setWidth 8, Config.pid.setWidth 8, (Config.pid >>> 8).setWidth 8, 0x00#8, 0x01#8, 0x01#8, 0x02#8,
   0x03#8, 0x01#8]

/-- The configuration set's 75 bytes (R230, and the listing of 95_test_vectors.md). -/
def configBytes : List Byte :=
  [0x09#8, 0x02#8, 0x4B#8, 0x00#8, 0x02#8, 0x01#8, 0x00#8, 0xA0#8, 0x32#8, 0x08#8, 0x0B#8, 0x00#8, 0x02#8, 0x02#8, 0x02#8,
   0x00#8, 0x00#8, 0x09#8, 0x04#8, 0x00#8, 0x00#8, 0x01#8, 0x02#8, 0x02#8, 0x00#8, 0x00#8]
  ++ [0x05#8, 0x24#8, 0x00#8, 0x10#8, 0x01#8, 0x05#8, 0x24#8, 0x01#8, 0x01#8, 0x01#8, 0x04#8, 0x24#8, 0x02#8, 0x06#8,
    0x05#8, 0x24#8, 0x06#8, 0x00#8, 0x01#8, 0x07#8, 0x05#8, 0x81#8, 0x03#8, 0x10#8, 0x00#8, 0x10#8]
  ++ [0x09#8, 0x04#8, 0x01#8, 0x00#8, 0x02#8, 0x0A#8, 0x00#8, 0x00#8, 0x00#8, 0x07#8, 0x05#8, 0x02#8, 0x02#8, 0x40#8,
    0x00#8, 0x00#8, 0x07#8, 0x05#8, 0x83#8, 0x02#8, 0x40#8, 0x00#8, 0x00#8]

/-- The bytes of a string descriptor (R233). -/
def stringBytes (text : List Byte) : List Byte :=
  [BitVec.ofNat 8 (2 + 2 * text.length), 0x03#8] ++ text.flatMap fun c => [c, 0x00#8]

/-- What CLEAR_FEATURE and SET_FEATURE make of the device state, with `v` the value written (R142, R143). -/
def FeatureWritten (sp : SetupPacket) (d d' : DeviceState) (v : Bool) : Prop :=
  (sp.valueLow = 1#8 → d' = { d with remoteWakeupEnabled := v }) ∧
  (sp.valueLow = 0#8 → ∃ f, d' = { d with endpointHaltFlags := f } ∧
    ∀ j, j < 4 → f.getLsbD j = if j = sp.index.toNat % 16 then v else d.endpointHaltFlags.getLsbD j) ∧
  (sp.valueLow ≠ 0#8 → sp.valueLow ≠ 1#8 → d' = d)

/-- The packets of a control response, in order, from a state in which its first DMA is in flight: the DMA completes and
loads a packet; while a continuation is recorded, it is sent and the same goes on. -/
inductive SendsPackets : State → List (List Byte) → Prop where
  | last {s t : State} {p : List Byte} : exec .dmaComplete s = .next t → t.bus.inLoaded.e0 = some p →
      t.ctx.pending = none → SendsPackets s [p]
  | more {s t u : State} {p : List Byte} {c : Pending} {ps : List (List Byte)} : exec .dmaComplete s = .next t →
      t.bus.inLoaded.e0 = some p → t.ctx.pending = some c →
      exec (.sendContinuation c.offset c.remaining) t = .next u → SendsPackets u ps → SendsPackets s (p :: ps)

/-- The operations that act for the foreground. -/
def foregroundOperation (i : Instr) : Prop :=
  i = .configure ∨ (∃ b, i = .writeByte b) ∨ i = .writeByteSpin ∨ i = .dtr ∨ i = .rts ∨ i = .enterCs

/-- The condition of R110 for an invocation: the handler is installed, `IRQ` is idle and not hung, and some cause is both
enabled and pending (R39). -/
def InvocationEnabled (s : State) : Prop :=
  s.ctx.handlerInstalled = true ∧ AtPhase s .idle ∧
    ((s.reg.inten.usbEvent = true ∧ s.reg.events.usbEvent = true) ∨
      (s.reg.inten.ep0Setup = true ∧ s.reg.events.ep0Setup = true) ∨
      (s.reg.inten.ep0DataDone = true ∧ s.reg.events.ep0DataDone = true) ∨
      (s.reg.inten.epData = true ∧ s.reg.events.epData = true) ∨
      ∃ n, s.reg.inten.endEpOut.get n = true ∧ s.reg.events.endEpOut.get n = true)

/-- `s` after a DMA start of this region (R192): the transfer is in flight, or the start was refused with its fault. -/
def started (s : State) (dir : Dir) (n : Ep) (buf : BufId) (off cnt : Half) : State :=
  match s.dma with
  | some x => withFault s (.dmaContention x dir n)
  | none =>
    if off.toNat + cnt.toNat ≤ capacity buf then { s with dma := some ⟨dir, n, buf, off, cnt⟩ }
    else withFault s (.dmaBounds buf off.toNat cnt.toNat)

/-- A send on endpoint `n` was refused in `s` because `x` is in flight: the data is written to the endpoint's buffer, the
registers are programmed, the continuation is recorded as for any send, and the new faults are DmaContention and a
BufferRace for each byte written into the region of `x`; nothing else changed, and `x` is still in flight. -/
def SentUnder (s : State) (x : Transfer) (t : State) (n : Ep) (data : List Byte) : Prop :=
  ∃ m fs, Wrote s.mem m (inBuf n) 0 data ∧
    (∀ r, r ∈ fs ↔ r ∈ s.faults ∨ r = .dmaContention x .dirIn n ∨
      ∃ j, j < data.length ∧ x.buf = inBuf n ∧ x.off.toNat ≤ j ∧ j < x.off.toNat + x.cnt.toNat ∧
        r = .bufferRace (inBuf n) j) ∧
    t = { s with
      ctx :=
        if n = .ep0 then
          { s.ctx with
            pending := if 64 < data.length then some ⟨64#16, BitVec.ofNat 16 (data.length - 64)⟩ else none }
        else s.ctx
      mem := m
      faults := fs
      reg := { s.reg with
        epInPtr := s.reg.epInPtr.set n ⟨inBuf n, 0#16⟩
        epInMaxCnt := s.reg.epInMaxCnt.set n
          (BitVec.ofNat 16 (if n = .ep0 then min data.length 64 else data.length)) } }

/-- The descriptor a GET_DESCRIPTOR packet asks for, where there is one with a data stage (R215, R231 to R233). -/
def AsksFor (sp : SetupPacket) (d : List Byte) : Prop :=
  (sp.valueHigh = 0x01#8 ∧ d = deviceBytes) ∨ (sp.valueHigh = 0x02#8 ∧ d = configBytes) ∨
    (sp.valueHigh = 0x03#8 ∧ sp.valueLow = 0x00#8 ∧ d = [0x04#8, 0x03#8, 0x09#8, 0x04#8]) ∨
    (sp.valueHigh = 0x03#8 ∧ sp.valueLow = 0x01#8 ∧ d = stringBytes Config.strManufacturer) ∨
    (sp.valueHigh = 0x03#8 ∧ sp.valueLow = 0x02#8 ∧ d = stringBytes Config.strProduct)

/-- A block read of byte `j` of a buffer races the transfer in flight: it is an OUT transfer into that byte (R72). -/
def RacedRead (s : State) (buf : BufId) (j : Nat) : Prop :=
  ∃ x, s.dma = some x ∧ x.dir = .dirOut ∧ x.buf = buf ∧ x.off.toNat ≤ j ∧ j < x.off.toNat + x.cnt.toNat

/-- `fs` is the fault set after a block read of the first `n` bytes of a buffer: a BufferRace for each raced byte and an
UninitRead for each byte no rule has written (R72, R265). -/
def AfterRead (s : State) (buf : BufId) (n : Nat) (fs : List FaultRecord) : Prop :=
  ∀ r, r ∈ fs ↔ r ∈ s.faults ∨ (∃ j, j < n ∧ RacedRead s buf j ∧ r = .bufferRace buf j) ∨
    ∃ j, j < n ∧ s.mem.load buf j = none ∧ r = .uninitRead buf j

/-- What the sink is left with when `data` is handed over from draw `k` on (R197). -/
def handed (k : Nat) (data : List Byte) : List Handed := data.mapIdx fun j b => ⟨b, Config.ringSink (k + j) b⟩

/-- The turns of `IRQ` and of `FG`. -/
def blockTurn (t : Turn) : Prop := t = .irq ∨ t = .fg ∨ ∃ op, t = .call op

end Sys2Proof.Claims

open Sys2Proof Sys2Proof.Machine Sys2Proof.Claims

/-! ## Encoding -/

/-- Decoding the record of any well-formed operation gives it back, with every operand at every value, whatever bytes stand
after the record (R80, R83, R88, R97; the operands of calls, and that bytes after them are not read, are the model's,
log 3). -/
def Obligations.DecodeOfEncodeIsIdentity : Prop :=
  ∀ (i : Instr) (more : List Byte), i.wellFormed = true → decode i.format (encode i ++ more) = .ok i

/-- The decoder gives only well-formed operations, of the format asked for: a SETUP record gives the row its key, type bits
and index match (R83, R88, R97). -/
def Obligations.DecodedOperationsAreWellFormed : Prop :=
  ∀ (fmt : Format) (bytes : List Byte) (i : Instr), decode fmt bytes = .ok i → i.wellFormed = true ∧ i.format = fmt

/-- Packets of vector table V1 and ids of R97 decode to the rows they stand for. -/
def Obligations.SampleRecordsDecode : Prop :=
  decode .setup [0x80#8, 0x06#8, 0x00#8, 0x01#8, 0x00#8, 0x00#8, 0x12#8, 0x00#8]
      = .ok (.getDescriptor ⟨0x80#8, 0x06#8, 0x00#8, 0x01#8, 0x0000#16, 0x0012#16⟩) ∧
  decode .setup [0xA1#8, 0x21#8, 0x00#8, 0x00#8, 0x01#8, 0x00#8, 0x07#8, 0x00#8]
      = .ok (.classOtherIf ⟨0xA1#8, 0x21#8, 0x00#8, 0x00#8, 0x0001#16, 0x0007#16⟩) ∧
  decode .setup [0xE1#8, 0x22#8, 0x01#8, 0x00#8, 0x00#8, 0x00#8, 0x00#8, 0x00#8]
      = .ok (.vendorReserved ⟨0xE1#8, 0x22#8, 0x01#8, 0x00#8, 0x0000#16, 0x0000#16⟩) ∧
  decode .event [0x7#8] = .ok .evEndEpOut2 ∧
  decode .call [0x18#8] = .ok .dmaComplete

/-- DECODE_SETUP returns the packet of the setup registers, its 16-bit fields assembled little-endian and the value bytes
kept apart, and changes nothing else (R64, R115). -/
def Obligations.SetupFieldsAssembledLittleEndian : Prop :=
  ∀ s : State, ∃ sp : SetupPacket,
    sp.requestType = s.reg.setup.bmRequestType ∧ sp.request = s.reg.setup.bRequest ∧
    sp.valueLow = s.reg.setup.wValueL ∧ sp.valueHigh = s.reg.setup.wValueH ∧
    sp.index.toNat = s.reg.setup.wIndexL.toNat + 256 * s.reg.setup.wIndexH.toNat ∧
    sp.length.toNat = s.reg.setup.wLengthL.toNat + 256 * s.reg.setup.wLengthH.toNat ∧
    exec .decodeSetup s = .next { s with ret := .packet sp }

/-- A record with an id no row has stops the machine by name: event ids 9 to 15, call ids above 0x19 (R97; log 3). -/
def Obligations.UnassignedRecordsStop : Prop :=
  ∀ (s : State) (id : Byte) (ops : List Byte) (rest : List Turn),
    (8 < id.toNat % 16 → s.sched = .record .event (id :: ops) :: rest →
      step s = .fault (.badRecord .unassignedEvent)) ∧
    (0x19 < id.toNat → s.sched = .record .call (id :: ops) :: rest → step s = .fault (.badRecord .unassignedCall))

/-! ## The step -/

/-- A step whose next turn is a record that decodes to an operation is that operation, run with the schedule past the turn
(log 1). -/
def Obligations.StepRunsRecordedOperation : Prop :=
  ∀ (s : State) (fmt : Format) (bytes : List Byte) (rest : List Turn) (i : Instr),
    s.sched = .record fmt bytes :: rest → decode fmt bytes = .ok i → step s = exec i { s with sched := rest }

/-- A turn of `IRQ` runs the operation of its phase, in the order of R110: an invocation from Idle, then bus-ready, data-done,
setup, the three data steps, the four ends of OUT. -/
def Obligations.StepRunsPhaseOperation : Prop :=
  ∀ (s : State) (rest : List Turn), s.sched = .irq :: rest →
    (s.ctx.irqPhase = .idle → step s = exec .irqInvoke { s with sched := rest }) ∧
    (s.ctx.irqPhase = .a → step s = exec .evReady { s with sched := rest }) ∧
    (s.ctx.irqPhase = .b → step s = exec .evEp0DataDone { s with sched := rest }) ∧
    (s.ctx.irqPhase = .c → step s = exec .evEp0Setup { s with sched := rest }) ∧
    (s.ctx.irqPhase = .d1 ∨ s.ctx.irqPhase = .d2 ∨ s.ctx.irqPhase = .d3 →
      step s = exec .evEpData { s with sched := rest }) ∧
    (s.ctx.irqPhase = .e0 → step s = exec .evEndEpOut0 { s with sched := rest }) ∧
    (s.ctx.irqPhase = .e1 → step s = exec .evEndEpOut1 { s with sched := rest }) ∧
    (s.ctx.irqPhase = .e2 → step s = exec .evEndEpOut2 { s with sched := rest }) ∧
    (s.ctx.irqPhase = .e3 → step s = exec .evEndEpOut3 { s with sched := rest })

/-- A turn of `FG` runs the call it has entered, or an iteration of its spin, and without a call only uses up the turn (that it
does is the model's, log 2); entering a call moves `FG` from Ready to that call (the model's split of a call into entry and
step, log 24); a turn of `DMA` is DMA_COMPLETE; a system reset, a turn of the model (log 27), gives the reset state: the
values of R45, and where R45 leaves a value unspecified those of log 9 (setup registers) and log 10 (PTR, MAXCNT, AMOUNT);
the schedule and the counter of free values go on (log 16). -/
def Obligations.StepRunsForegroundAndDmaOperation : Prop :=
  ∀ (s : State) (rest : List Turn),
    (s.sched = .fg :: rest → ∀ b, s.ctx.fg = .call (.writeByte b) →
      step s = exec (.writeByte b) { s with sched := rest }) ∧
    (s.sched = .fg :: rest → s.ctx.fg = .call .configure → step s = exec .configure { s with sched := rest }) ∧
    (s.sched = .fg :: rest → s.ctx.fg = .call .dtr → step s = exec .dtr { s with sched := rest }) ∧
    (s.sched = .fg :: rest → s.ctx.fg = .call .rts → step s = exec .rts { s with sched := rest }) ∧
    (s.sched = .fg :: rest → ∀ b, s.ctx.fg = .spin b → step s = exec .writeByteSpin { s with sched := rest }) ∧
    (s.sched = .fg :: rest → s.ctx.fg = .ready → step s = .next { s with sched := rest }) ∧
    (∀ op, s.sched = .call op :: rest → s.ctx.irqPhase = .idle → s.hang = none → s.ctx.fg = .ready →
      step s = .next { s with sched := rest, ctx := { s.ctx with fg := .call op } }) ∧
    (s.sched = .dma :: rest → step s = exec .dmaComplete { s with sched := rest }) ∧
    (s.sched = .systemReset :: rest → step s = .next { State.reset with sched := rest, freeIdx := s.freeIdx })

/-! ## Whole-machine rules -/

/-- The reset state holds the values of R45: device unconfigured, 115200 8N1 with line state 0, no continuation, no line-coding
transfer, the guard clear, every agent at rest, the handler not installed, the constant EndpointTable, every register of R31
to R34 and R37 zero (`PTR` and `MAXCNT` are unspecified there), nothing in flight, the bus side empty, no fault, no history.
And it meets the invariant, which the spec does not state: its clause on AMOUNT rests on log 10, that on the snapshot on
log 19, that on the memory's form on log 12. -/
def Obligations.ResetMeetsInvariant : Prop :=
  State.reset.ctx.dev = ⟨0#8, 0#8, 0b0000#4, false⟩ ∧ State.reset.ctx.line = ⟨115200#32, 0#8, 0#8, 8#8, 0b00#2⟩ ∧
  State.reset.ctx.pending = none ∧ State.reset.ctx.lineCodingPending = false ∧ State.reset.ctx.dmaBusy = false ∧
  State.reset.ctx.irqPhase = .idle ∧ State.reset.ctx.fg = .ready ∧ State.reset.ctx.handlerInstalled = false ∧
  State.reset.ctx.epTable = ⟨⟨.control, .bidirectional⟩, ⟨.interrupt, .dirIn⟩, ⟨.bulk, .dirOut⟩, ⟨.bulk, .dirIn⟩⟩ ∧
  State.reset.reg.enable = false ∧ State.reset.reg.usbPullup = false ∧
  State.reset.reg.inten = ⟨false, false, false, false, ⟨false, false, false, false⟩⟩ ∧
  State.reset.reg.epInEn = 0b0000#4 ∧ State.reset.reg.epOutEn = 0b0000#4 ∧
  State.reset.reg.events
    = ⟨false, false, false, false, ⟨false, false, false, false⟩, ⟨false, false, false, false⟩⟩ ∧
  State.reset.reg.eventCause = ⟨false, false⟩ ∧ State.reset.reg.epDataStatus = 0x00000000#32 ∧
  State.reset.reg.sizeEpOut = ⟨0#8, 0#8, 0#8, 0#8⟩ ∧ State.reset.dma = none ∧
  State.reset.bus
    = ⟨false, ⟨none, none, none, none⟩, ⟨none, none, none, none⟩, ⟨false, false, false, false⟩, false⟩ ∧
  State.reset.faults = [] ∧ State.reset.history = [] ∧ State.reset.hang = none ∧
  (∀ buf off, State.reset.mem.load buf off = none) ∧
  Inv State.reset

/-- Every step, whatever turns the schedule holds, keeps the invariant: the staging memory's canonical form (log 12), the
constant EndpointTable, the unused bits of EPDATASTATUS and of its snapshot (log 19), transfers inside their buffers, OUT
packets and their counts at most 64 bytes (the AMOUNT registers at a system reset by log 10), the faults a set (R27, R34,
R37, R42, R61, R192, R196, R278). The invariant is the model's. -/
def Obligations.StepKeepsInvariant : Prop :=
  ∀ s s' : State, Inv s → step s = .next s' → Inv s'

/-- Every operation of the table answers a next state from every state, and leaves the schedule alone: no operation stops. That
one which is not enabled does nothing is log 2, that any row may be run by itself log 6, and that the machine goes on after
a model fault log 13. -/
def Obligations.EveryOperationAnswersNext : Prop :=
  ∀ (i : Instr) (s : State), ∃ t, exec i s = .next t ∧ t.sched = s.sched

/-- No step removes a recorded fault, except a system reset, which empties the set (R42, R265, R290). -/
def Obligations.FaultsAreNeverRemoved : Prop :=
  ∀ s t : State, step s = .next t → (∀ r, r ∈ s.faults → r ∈ t.faults) ∨ t = resetOf t

/-- The transfer in flight is never replaced: after any operation it is still in flight, unless DMA_COMPLETE ended it or the
system was reset (R40, R192). -/
def Obligations.TransferInFlightIsNeverReplaced : Prop :=
  ∀ (i : Instr) (s t : State) (x : Transfer), s.dma = some x → exec i s = .next t →
    t.dma = some x ∨ (t.dma = none ∧ i = .dmaComplete) ∨ t = resetOf t

/-- The guard is taken only by WRITE_BYTE, its spin, the two acquisitions and the bulk OUT-done handling, and released only
by EXIT_CS, phase D, and the bulk OUT delivery, or by a system reset (R26, R185; the release after OUT is the spec's
decision D35). -/
def Obligations.GuardChangesOnlyAtItsUsers : Prop :=
  ∀ (i : Instr) (s t : State), exec i s = .next t →
    (s.ctx.dmaBusy = false → t.ctx.dmaBusy = true →
      (∃ b, i = .writeByte b) ∨ i = .writeByteSpin ∨ i = .enterCs ∨ i = .enterCsIrq ∨ (∃ n, i = .bulkOutDone n) ∨
        i = .evEpData) ∧
    (s.ctx.dmaBusy = true → t.ctx.dmaBusy = false →
      i = .exitCs ∨ i = .evEpData ∨ i = .evEndEpOut2 ∨ (∃ n, i = .bulkOutDeliver n) ∨ t = resetOf t)

/-- LineInfo is written only by SET_CONTROL_LINE_STATE and the end of a line-coding transfer, DeviceState only by the
standard requests that set it and by bus-ready, directly or through the dispatcher; a system reset writes both (R21, R23). -/
def Obligations.LineAndDeviceStateHaveFewWriters : Prop :=
  ∀ (i : Instr) (s t : State), exec i s = .next t →
    (t.ctx.line ≠ s.ctx.line →
      (∃ sp, i = .setControlLineState sp ∨ i = .dispatchSetup sp) ∨ i = .lineCodingComplete ∨ i = .evEp0Setup ∨
        i = .evEndEpOut0 ∨ t = resetOf t) ∧
    (t.ctx.dev ≠ s.ctx.dev →
      (∃ sp, i = .clearFeature sp ∨ i = .setFeature sp ∨ i = .setConfiguration sp ∨ i = .setInterface sp ∨
        i = .dispatchSetup sp) ∨ i = .evEp0Setup ∨ i = .evReady ∨ t = resetOf t)

/-- While `IRQ` is active, `FG` takes no step: a foreground operation changes nothing, and a turn of `FG` or of a caller only
uses up the turn (R250, R262; that such a turn is used up is the model's, log 2). -/
def Obligations.ForegroundTakesNoStepWhileIrqActive : Prop :=
  ∀ s : State, s.ctx.irqPhase ≠ .idle →
    (∀ i, foregroundOperation i → exec i s = .next s) ∧
    (∀ rest, s.sched = .fg :: rest → step s = .next { s with sched := rest }) ∧
    (∀ op rest, s.sched = .call op :: rest → step s = .next { s with sched := rest })

/-- `enterCriticalSection` in interrupt context takes a free guard; with the guard held it hangs `IRQ`, and from then on no
turn of `IRQ`, of `FG` or of a caller changes anything (R187; the hang as a field of the state is log 15). -/
def Obligations.InterruptAcquisitionTakesOrHangs : Prop :=
  ∀ s : State,
    exec .enterCsIrq s
      = .next (if s.ctx.dmaBusy = true then { s with hang := some .irqSpinDeadlock }
          else { s with ctx := { s.ctx with dmaBusy := true } }) ∧
    (s.hang = some .irqSpinDeadlock → ∀ t rest, blockTurn t → s.sched = t :: rest →
      step s = .next { s with sched := rest })

/-- No step of `HOST` changes the device context, the staging buffers, the transfer in flight, the enable masks, the faults
or the hang, and none removes from the history (R275 to R278). -/
def Obligations.HostStepsLeaveTheBlockAlone : Prop :=
  ∀ (s t : State) (h : HostStep) (rest : List Turn), s.sched = .host h :: rest → step s = .next t →
    t.ctx = s.ctx ∧ t.mem = s.mem ∧ t.dma = s.dma ∧ t.faults = s.faults ∧ t.hang = s.hang ∧ t.ret = s.ret ∧
    t.epDataSnap = s.epDataSnap ∧ t.freeIdx = s.freeIdx ∧ t.sched = rest ∧
    t.reg.enable = s.reg.enable ∧ t.reg.usbPullup = s.reg.usbPullup ∧ t.reg.inten = s.reg.inten ∧
    t.reg.epInEn = s.reg.epInEn ∧ t.reg.epOutEn = s.reg.epOutEn ∧ t.reg.epInPtr = s.reg.epInPtr ∧
    t.reg.epOutPtr = s.reg.epOutPtr ∧ t.reg.epInMaxCnt = s.reg.epInMaxCnt ∧ t.reg.epOutMaxCnt = s.reg.epOutMaxCnt ∧
    t.reg.epOutAmount = s.reg.epOutAmount ∧ ∃ more, t.history = s.history ++ more

/-! ## The dispatcher -/

/-- IRQ_INVOKE in any state: with the handler installed, `IRQ` idle and not hung, and some cause both enabled and pending, the
dispatcher enters phase A and nothing else changes; in every other state (an event pending whose INTEN bit is clear, no
event, no handler, `IRQ` in a phase, `IRQ` hung) it is not enabled, and nothing changes (R39, R110, R111, R266; that the
operation then does nothing is log 2, that a hung `IRQ` takes no step log 15). -/
def Obligations.InvocationEntersPhaseA : Prop :=
  ∀ s : State,
    (InvocationEnabled s → exec .irqInvoke s = .next { s with ctx := { s.ctx with irqPhase := .a } }) ∧
    (¬ InvocationEnabled s → exec .irqInvoke s = .next s)

/-- An invocation in which no flag is set runs every phase as a no-op: ten turns of `IRQ` from phase A bring it back to Idle
with everything else unchanged but the snapshot of phase D, which is zero after it (R110, R111, R118's `s <- 0`, R120, R267; that
the snapshot is a field of the state, and zero again after D(3), is the model's, log 19). -/
def Obligations.QuietInvocationReturnsToIdle : Prop :=
  ∀ (s : State) (rest : List Turn), AtPhase s .a → s.reg.events.usbEvent = false → s.reg.events.ep0DataDone = false →
    s.reg.events.ep0Setup = false → s.reg.events.epData = false →
    s.reg.events.endEpOut = ⟨false, false, false, false⟩ →
    s.sched = [.irq, .irq, .irq, .irq, .irq, .irq, .irq, .irq, .irq, .irq] ++ rest →
    Sys2Proof.core.run 10 s = .next { s with ctx := { s.ctx with irqPhase := .idle }, epDataSnap := 0#32, sched := rest }

/-- EV_READY, phase A: nothing without the event; the event alone is cleared; with the READY cause endpoint 0 and the pullup
come on, DeviceState is unconfigured and both transfer flags are dropped (R112; the scope of this reset is D21). -/
def Obligations.BusReadyPhase : Prop :=
  ∀ s : State, AtPhase s .a →
    (s.reg.events.usbEvent = false → exec .evReady s = .next { s with ctx := { s.ctx with irqPhase := .b } }) ∧
    (s.reg.events.usbEvent = true → s.reg.eventCause.ready = false →
      exec .evReady s = .next { s with
        ctx := { s.ctx with irqPhase := .b }
        reg := { s.reg with events := { s.reg.events with usbEvent := false } } }) ∧
    (s.reg.events.usbEvent = true → s.reg.eventCause.ready = true →
      exec .evReady s = .next { s with
        ctx := { s.ctx with
          irqPhase := .b
          dev := ⟨0#8, 0#8, 0b0000#4, false⟩
          pending := none
          lineCodingPending := false }
        reg := { s.reg with
          events := { s.reg.events with usbEvent := false }
          eventCause := { s.reg.eventCause with ready := false }
          epInEn := s.reg.epInEn ||| 0b0001#4
          epOutEn := s.reg.epOutEn ||| 0b0001#4
          usbPullup := true } })

/-- EV_EP0DATADONE, phase B: the flag is cleared, and then the line-coding read, the continuation or the status stage, in
that order of precedence (R113; the order is D17). -/
def Obligations.DataDonePhase : Prop :=
  ∀ s u : State, AtPhase s .b →
    u = { s with reg := { s.reg with events := { s.reg.events with ep0DataDone := false } } } →
    (s.reg.events.ep0DataDone = false →
      exec .evEp0DataDone s = .next { s with ctx := { s.ctx with irqPhase := .c } }) ∧
    (s.reg.events.ep0DataDone = true → s.ctx.lineCodingPending = true →
      ∃ t, exec .startEp0OutRead u = .next t ∧
        exec .evEp0DataDone s = .next { t with ctx := { t.ctx with irqPhase := .c } }) ∧
    (s.reg.events.ep0DataDone = true → s.ctx.lineCodingPending = false → ∀ p, s.ctx.pending = some p →
      ∃ t, exec (.sendContinuation p.offset p.remaining) u = .next t ∧
        exec .evEp0DataDone s = .next { t with ctx := { t.ctx with irqPhase := .c } }) ∧
    (s.reg.events.ep0DataDone = true → s.ctx.lineCodingPending = false → s.ctx.pending = none →
      exec .evEp0DataDone s
        = .next { u with ctx := { u.ctx with irqPhase := .c }, history := u.history ++ [.status] })

/-- EV_EP0SETUP, phase C: the flag is cleared, an outstanding transfer is abandoned, and the row the setup registers select
is run; on true the phase goes on, on false endpoint 0 is stalled first, and a system reset by the hook ends it all (R114,
R116, R117, R176; the abandonment is D22). -/
def Obligations.SetupPhaseRunsSelectedRequest : Prop :=
  ∀ s : State, AtPhase s .c →
    (s.reg.events.ep0Setup = false → exec .evEp0Setup s = .next { s with ctx := { s.ctx with irqPhase := .d1 } }) ∧
    (s.reg.events.ep0Setup = true →
      ∃ i u, decode .setup (setupBytes s.reg.setup) = .ok i ∧
        exec i { s with
          ctx := { s.ctx with pending := none, lineCodingPending := false }
          reg := { s.reg with events := { s.reg.events with ep0Setup := false } } } = .next u ∧
        exec .evEp0Setup s = .next
          (if u.ret = .bool true then { u with ctx := { u.ctx with irqPhase := .d1 }, ret := s.ret }
           else if u.ret = .bool false then
             { u with ctx := { u.ctx with irqPhase := .d1 }, ret := s.ret, history := u.history ++ [.stall] }
           else u))

/-- DISPATCH_SETUP of a packet is the operation its record decodes to: selection by type, index and request code is the same
whichever way it is written (R83, R97, R116, R140, R170). -/
def Obligations.DispatchAgreesWithDecoding : Prop :=
  ∀ (sp : SetupPacket) (s : State),
    ∃ i t, decode .setup (encodePacket sp) = .ok i ∧ exec i s = .next t ∧ exec (.dispatchSetup sp) s = .next t

/-- EV_EPDATA at D(1) and D(3): D(1) takes and clears the event and the status bits; an IN-done bit of endpoint 1 or 3
releases the guard, and an OUT-done bit of either is ignored (R118; D37, D38). That the snapshot is a field of the state,
and zero again after D(3), is the model's (log 19). -/
def Obligations.EpDataPhaseOfInEndpoints : Prop :=
  ∀ s : State, s.ctx.epTable = epTableConst →
    (AtPhase s .d1 →
      exec .evEpData s = .next
        (if s.reg.events.epData = true then
          { s with
            ctx := { s.ctx with irqPhase := .d2, dmaBusy := s.ctx.dmaBusy && !s.reg.epDataStatus.getLsbD 1 }
            reg := { s.reg with events := { s.reg.events with epData := false }, epDataStatus := 0#32 }
            epDataSnap := s.reg.epDataStatus }
         else { s with ctx := { s.ctx with irqPhase := .d2 }, epDataSnap := 0#32 })) ∧
    (AtPhase s .d3 →
      exec .evEpData s = .next { s with
        ctx := { s.ctx with irqPhase := .e0, dmaBusy := s.ctx.dmaBusy && !s.epDataSnap.getLsbD 3 }
        epDataSnap := 0#32 })

/-- EV_EPDATA at D(2): without the OUT-done bit of endpoint 2 nothing (its IN-done bit is ignored); with it the bulk OUT-done
handling, which hangs `IRQ` in D(2) when the guard is held (R118, R187, R194, R300). -/
def Obligations.EpDataPhaseOfBulkOut : Prop :=
  ∀ s : State, s.ctx.epTable = epTableConst → AtPhase s .d2 →
    (s.epDataSnap.getLsbD 18 = false → exec .evEpData s = .next { s with ctx := { s.ctx with irqPhase := .d3 } }) ∧
    (s.epDataSnap.getLsbD 18 = true → s.ctx.dmaBusy = true →
      exec .evEpData s = .next { s with hang := some .irqSpinDeadlock }) ∧
    (s.epDataSnap.getLsbD 18 = true → s.ctx.dmaBusy = false →
      ∃ t, exec (.bulkOutDone .ep2) s = .next t ∧
        exec .evEpData s = .next { t with ctx := { t.ctx with irqPhase := .d3 } })

/-- EV_ENDEPOUT0 to 3: the flag is cleared; endpoints 1 and 3 ignore it, endpoint 0 completes a pending line-coding transfer
and ignores it otherwise, endpoint 2 delivers; E(3) returns from the interrupt (R119, R120, R175, R195, R267). A reset by
the hook in E(0) ends the invocation and leaves the reset state, which is Idle (R176, R290; log 30). -/
def Obligations.EndOfOutPhases : Prop :=
  ∀ s : State,
    (AtPhase s .e0 → (s.reg.events.endEpOut.e0 = false ∨ s.ctx.lineCodingPending = false) →
      exec .evEndEpOut0 s = .next { s with
        ctx := { s.ctx with irqPhase := .e1 }
        reg := { s.reg with events := { s.reg.events with endEpOut := { s.reg.events.endEpOut with e0 := false } } } }) ∧
    (AtPhase s .e0 → s.reg.events.endEpOut.e0 = true → s.ctx.lineCodingPending = true →
      ∃ t, exec .lineCodingComplete { s with reg := { s.reg with events := { s.reg.events with
          endEpOut := { s.reg.events.endEpOut with e0 := false } } } } = .next t ∧
        exec .evEndEpOut0 s
          = .next (if t.ctx.irqPhase = .idle then t else { t with ctx := { t.ctx with irqPhase := .e1 } })) ∧
    (AtPhase s .e1 →
      exec .evEndEpOut1 s = .next { s with
        ctx := { s.ctx with irqPhase := .e2 }
        reg := { s.reg with events := { s.reg.events with endEpOut := { s.reg.events.endEpOut with e1 := false } } } }) ∧
    (AtPhase s .e2 → s.reg.events.endEpOut.e2 = false →
      exec .evEndEpOut2 s = .next { s with ctx := { s.ctx with irqPhase := .e3 } }) ∧
    (AtPhase s .e2 → s.reg.events.endEpOut.e2 = true →
      ∃ t, exec (.bulkOutDeliver .ep2) { s with reg := { s.reg with events := { s.reg.events with
          endEpOut := { s.reg.events.endEpOut with e2 := false } } } } = .next t ∧
        exec .evEndEpOut2 s = .next { t with ctx := { t.ctx with irqPhase := .e3 } }) ∧
    (AtPhase s .e3 →
      exec .evEndEpOut3 s = .next { s with
        ctx := { s.ctx with irqPhase := .idle }
        reg := { s.reg with events := { s.reg.events with endEpOut := { s.reg.events.endEpOut with e3 := false } } } })

/-! ## Standard requests -/

/-- GET_STATUS sends two bytes: bit 0 of the first is the halt flag of the endpoint `index[3:0]` for the endpoint recipient
(0 for endpoints 4 to 15), and 0 for every other recipient (R93, R141; D30, D32). -/
def Obligations.GetStatusReportsHaltFlag : Prop :=
  ∀ (sp : SetupPacket) (s : State), s.dma = none →
    ∃ b u, SentWhole s u [b, 0x00#8] ∧ exec (.getStatus sp) s = .next { u with ret := .bool true } ∧
      (sp.requestType.toNat % 32 = 2 →
        b = if s.ctx.dev.endpointHaltFlags.getLsbD (sp.index.toNat % 16) = true then 0x01#8 else 0x00#8) ∧
      (sp.requestType.toNat % 32 ≠ 2 → b = 0x00#8)

/-- CLEAR_FEATURE and SET_FEATURE write remote wakeup or the halt flag of the addressed endpoint, SET_INTERFACE the alternate
setting; each enters the status stage, returns true and changes nothing else (R87, R142, R143, R151; D13, D30, D31). -/
def Obligations.FeatureAndInterfaceRequests : Prop :=
  ∀ (sp : SetupPacket) (s : State),
    (∃ d, FeatureWritten sp s.ctx.dev d false ∧
      exec (.clearFeature sp) s = .next { s with
        ctx := { s.ctx with dev := d }, history := s.history ++ [.status], ret := .bool true }) ∧
    (∃ d, FeatureWritten sp s.ctx.dev d true ∧
      exec (.setFeature sp) s = .next { s with
        ctx := { s.ctx with dev := d }, history := s.history ++ [.status], ret := .bool true }) ∧
    exec (.setInterface sp) s = .next { s with
      ctx := { s.ctx with dev := { s.ctx.dev with alternateInterface := sp.valueLow } }
      history := s.history ++ [.status]
      ret := .bool true }

/-- GET_CONFIGURATION is SEND_USB_PACKET on endpoint 0 of the configuration value, GET_INTERFACE that of the alternate
setting, and each returns true (kept in `ret`, log 7); with no transfer in flight the one byte is sent, and there is no
continuation (R147, R150, R190). -/
def Obligations.ConfigurationAndInterfaceReported : Prop :=
  ∀ (sp : SetupPacket) (s : State),
    (∃ u, exec (.sendUsbPacket .ep0 [s.ctx.dev.configurationValue]) s = .next u ∧
      exec (.getConfiguration sp) s = .next { u with ret := .bool true } ∧
      (s.dma = none → SentWhole s u [s.ctx.dev.configurationValue])) ∧
    (∃ u, exec (.sendUsbPacket .ep0 [s.ctx.dev.alternateInterface]) s = .next u ∧
      exec (.getInterface sp) s = .next { u with ret := .bool true } ∧
      (s.dma = none → SentWhole s u [s.ctx.dev.alternateInterface]))

/-- SET_CONFIGURATION with recipient device: the status stage, endpoints 1 to 3 enabled in their direction, endpoint 2 armed,
the value stored (R148, R149; D13, D61). That the write to SIZE_EPOUT[2] arms the endpoint and leaves the count it reads as is
read from R37 (log 18). -/
def Obligations.SetConfigurationEnablesEndpoints : Prop :=
  ∀ (sp : SetupPacket) (s : State), s.ctx.epTable = epTableConst → sp.requestType.toNat % 32 = 0 →
    exec (.setConfiguration sp) s = .next { s with
      ctx := { s.ctx with dev := { s.ctx.dev with configurationValue := sp.valueLow } }
      reg := { s.reg with epInEn := s.reg.epInEn ||| 0b1010#4, epOutEn := s.reg.epOutEn ||| 0b0100#4 }
      bus := { s.bus with outArmed := { s.bus.outArmed with e2 := true } }
      history := s.history ++ [.status]
      ret := .bool true }

/-- INIT_ENDPOINT by the table's direction: IN endpoints 1 and 3 get their enable bit, OUT endpoint 2 gets its bit and is
armed; bits already set stay set (R149; D61). That the write to SIZE_EPOUT[2] arms the endpoint and leaves the count it reads as
is read from R37 (log 18). -/
def Obligations.InitEndpointByDirection : Prop :=
  ∀ s : State, s.ctx.epTable = epTableConst →
    exec (.initEndpoint .ep1) s = .next { s with reg := { s.reg with epInEn := s.reg.epInEn ||| 0b0010#4 } } ∧
    exec (.initEndpoint .ep2) s = .next { s with
      reg := { s.reg with epOutEn := s.reg.epOutEn ||| 0b0100#4 }
      bus := { s.bus with outArmed := { s.bus.outArmed with e2 := true } } } ∧
    exec (.initEndpoint .ep3) s = .next { s with reg := { s.reg with epInEn := s.reg.epInEn ||| 0b1000#4 } }

/-- Requests that only return: SET_ADDRESS and any other standard request succeed with no action; a class request for
another interface, a vendor or reserved request, and SET_CONFIGURATION for a recipient other than the device fail (R88,
R116, R144, R148, R152; D9, D10, D12, D53, D54). -/
def Obligations.RequestsThatOnlyReturn : Prop :=
  ∀ (sp : SetupPacket) (s : State),
    exec (.setAddress sp) s = .next { s with ret := .bool true } ∧
    exec (.stdOther sp) s = .next { s with ret := .bool true } ∧
    exec (.classOtherIf sp) s = .next { s with ret := .bool false } ∧
    exec (.vendorReserved sp) s = .next { s with ret := .bool false } ∧
    (sp.requestType.toNat % 32 ≠ 0 → exec (.setConfiguration sp) s = .next { s with ret := .bool false })

/-- SET_DESCRIPTOR and an unmatched class request return false (kept in `ret`, log 7) and write nothing (R146, R177; that the
stall is the dispatcher's is log 8). Phase C with such a packet in the setup registers clears the setup flag, drops the
continuation and the line-coding transfer (D22), stalls, and does nothing else (R114, R117). -/
def Obligations.RefusedRequestsStall : Prop :=
  ∀ (sp : SetupPacket) (s : State),
    exec (.setDescriptor sp) s = .next { s with ret := .bool false } ∧
    exec (.classOther sp) s = .next { s with ret := .bool false } ∧
    (decode .setup (setupBytes s.reg.setup) = .ok (.setDescriptor sp) ∨
        decode .setup (setupBytes s.reg.setup) = .ok (.classOther sp) →
      AtPhase s .c → s.reg.events.ep0Setup = true →
      exec .evEp0Setup s = .next { s with
        ctx := { s.ctx with irqPhase := .d1, pending := none, lineCodingPending := false }
        reg := { s.reg with events := { s.reg.events with ep0Setup := false } }
        history := s.history ++ [.stall] })

/-- Responses started while a transfer is in flight: DmaContention is recorded, the transfer stays in flight, the new one never
starts, and each byte written into its region is a BufferRace. It holds of the one-packet responses of fixed length, of
SEND_USB_PACKET on every endpoint, of RESPOND, and of GET_DESCRIPTOR and GET_DESCRIPTOR_SELECT of every descriptor, whose
answers without a data stage are as with no transfer in flight (R72, R190, R192, R215, R216, R302; that contention is a
fault is D36, that the machine goes on and the data still lands are log 13 and log 14, `ret` is log 7). -/
def Obligations.ResponseUnderTransferFaults : Prop :=
  ∀ (sp : SetupPacket) (s : State) (x : Transfer) (i : Instr), s.dma = some x →
    (∃ b t, SentUnder s x t .ep0 [b, 0x00#8] ∧ exec (.getStatus sp) s = .next { t with ret := .bool true } ∧
      (sp.requestType.toNat % 32 = 2 →
        b = if s.ctx.dev.endpointHaltFlags.getLsbD (sp.index.toNat % 16) = true then 0x01#8 else 0x00#8) ∧
      (sp.requestType.toNat % 32 ≠ 2 → b = 0x00#8)) ∧
    (∃ t, SentUnder s x t .ep0 [s.ctx.dev.configurationValue] ∧
      exec (.getConfiguration sp) s = .next { t with ret := .bool true }) ∧
    (∃ t, SentUnder s x t .ep0 [s.ctx.dev.alternateInterface] ∧
      exec (.getInterface sp) s = .next { t with ret := .bool true }) ∧
    (∃ b0 b1 b2 b3 : Byte, ∃ t,
      s.ctx.line.baudRate.toNat = b0.toNat + 256 * b1.toNat + 65536 * b2.toNat + 16777216 * b3.toNat ∧
      SentUnder s x t .ep0 [b0, b1, b2, b3, s.ctx.line.charFormat, s.ctx.line.parityType, s.ctx.line.dataBits] ∧
      exec (.getLineCoding sp) s = .next { t with ret := .bool true }) ∧
    (∀ n data, data.length ≤ capacity (inBuf n) →
      ∃ t, SentUnder s x t n data ∧ exec (.sendUsbPacket n data) s = .next t) ∧
    (∀ d, min d.length sp.length.toNat ≤ 256 →
      ∃ t, SentUnder s x t .ep0 (d.take sp.length.toNat) ∧
        exec (.respond sp d) s = .next { t with ret := .bool true }) ∧
    (i = .getDescriptor sp ∨ i = .getDescriptorSelect sp →
      (∀ d, AsksFor sp d →
        ∃ t, SentUnder s x t .ep0 (d.take sp.length.toNat) ∧ exec i s = .next { t with ret := .bool true }) ∧
      (sp.valueHigh = 0x03#8 → sp.valueLow = 0x03#8 →
        exec i s = .next { s with history := s.history ++ [.status], ret := .bool true }) ∧
      (sp.valueHigh = 0x03#8 → 3 < sp.valueLow.toNat → exec i s = .next { s with ret := .bool false }) ∧
      (sp.valueHigh = 0x00#8 ∨ 3 < sp.valueHigh.toNat → exec i s = .next { s with ret := .bool false }))

/-! ## Class requests -/

/-- GET_LINE_CODING sends seven bytes: the baud rate little-endian, then charFormat, parityType and dataBits, whatever the
packet's length (R92, R171; D23). -/
def Obligations.GetLineCodingIsBitExact : Prop :=
  ∀ (sp : SetupPacket) (s : State), s.dma = none →
    ∃ b0 b1 b2 b3 : Byte, ∃ u,
      s.ctx.line.baudRate.toNat = b0.toNat + 256 * b1.toNat + 65536 * b2.toNat + 16777216 * b3.toNat ∧
      SentWhole s u [b0, b1, b2, b3, s.ctx.line.charFormat, s.ctx.line.parityType, s.ctx.line.dataBits] ∧
      exec (.getLineCoding sp) s = .next { u with ret := .bool true }

/-- SET_LINE_CODING sets the pending flag, lets the data stage in, and moves no data (R172; D14). -/
def Obligations.SetLineCodingOpensDataStage : Prop :=
  ∀ (sp : SetupPacket) (s : State),
    exec (.setLineCoding sp) s = .next { s with
      ctx := { s.ctx with lineCodingPending := true }
      bus := { s.bus with ep0RcvArmed := true }
      ret := .bool true }

/-- SET_CONTROL_LINE_STATE stores bits 1:0 of `valueLow`, calls the hook with the new line information and enters the status
stage; or the hook resets the system. Which of the two is free (R94, R173, R176; D33, D46, log 16). -/
def Obligations.SetControlLineStateStoresTwoBits : Prop :=
  ∀ (sp : SetupPacket) (s : State) (l : LineInfo),
    l = { s.ctx.line with lineState := BitVec.ofNat 2 sp.valueLow.toNat } →
    exec (.setControlLineState sp) s = .next { s with
        ctx := { s.ctx with line := l }
        history := s.history ++ [.hook l, .status]
        freeIdx := s.freeIdx + 1
        ret := .bool true } ∨
      exec (.setControlLineState sp) s = .next { resetOf s with freeIdx := s.freeIdx + 1 }

/-- SEND_BREAK acknowledges with the status stage only; the status stage and the stall are each one task, and change nothing
but the history (R117, R153, R174). -/
def Obligations.StatusAndStallTasksOnly : Prop :=
  ∀ (sp : SetupPacket) (s : State),
    exec (.sendBreak sp) s = .next { s with history := s.history ++ [.status], ret := .bool true } ∧
    exec .statusStage s = .next { s with history := s.history ++ [.status] } ∧
    exec .stallEp0 s = .next { s with history := s.history ++ [.stall] }

/-- LINE_CODING_COMPLETE: fewer than 7 bytes leave LineInfo as it was and call no hook; 7 or more are parsed from the first
seven bytes of the EP0 OUT buffer, lineState kept, and the hook is called; the status stage ends both. Or the hook resets
the system, which is free (R92, R175, R176; D15, D16, log 16). With any transfer in flight and any bytes unwritten: a read
that races an OUT transfer is BufferRace, an unwritten byte is UninitRead and its value is free, and the written bytes are
parsed all the same (R72, R265; log 11, log 13, log 14). -/
def Obligations.LineCodingPayloadParsed : Prop :=
  ∀ s : State,
    (s.reg.epOutAmount.e0.toNat < 7 →
      exec .lineCodingComplete s = .next { s with
        ctx := { s.ctx with lineCodingPending := false }, history := s.history ++ [.status] }) ∧
    (7 ≤ s.reg.epOutAmount.e0.toNat → (∀ j, j < 7 → ¬ RacedRead s .ep0Out j) →
      ∀ (p0 p1 p2 p3 p4 p5 p6 : Byte) (l : LineInfo), Holds s.mem .ep0Out 0 [p0, p1, p2, p3, p4, p5, p6] →
        l.baudRate.toNat = p0.toNat + 2 ^ 8 * p1.toNat + 2 ^ 16 * p2.toNat + 2 ^ 24 * p3.toNat →
        l.charFormat = p4 → l.parityType = p5 → l.dataBits = p6 → l.lineState = s.ctx.line.lineState →
        exec .lineCodingComplete s = .next { s with
            ctx := { s.ctx with lineCodingPending := false, line := l }
            history := s.history ++ [.hook l, .status]
            freeIdx := s.freeIdx + 1 } ∨
          exec .lineCodingComplete s = .next { resetOf s with freeIdx := s.freeIdx + 1 }) ∧
    (7 ≤ s.reg.epOutAmount.e0.toNat →
      ∃ (l : LineInfo) (fs : List FaultRecord) (k : Nat), AfterRead s .ep0Out 7 fs ∧ s.freeIdx < k ∧
        l.lineState = s.ctx.line.lineState ∧
        (∀ j b, j < 4 → s.mem.load .ep0Out j = some b → l.baudRate.toNat / 256 ^ j % 256 = b.toNat) ∧
        (∀ b, s.mem.load .ep0Out 4 = some b → l.charFormat = b) ∧
        (∀ b, s.mem.load .ep0Out 5 = some b → l.parityType = b) ∧
        (∀ b, s.mem.load .ep0Out 6 = some b → l.dataBits = b) ∧
        (exec .lineCodingComplete s = .next { s with
            ctx := { s.ctx with lineCodingPending := false, line := l }
            faults := fs
            history := s.history ++ [.hook l, .status]
            freeIdx := k } ∨
          exec .lineCodingComplete s = .next { resetOf s with freeIdx := k }))

/-- CHECK_SHOULD_RESET records the call of the hook with the line information and returns, or the system is reset; which of
the two is free (R176, R290; D46, log 16). -/
def Obligations.ResetHookReturnsOrResets : Prop :=
  ∀ s : State,
    exec .checkShouldReset s
        = .next { s with history := s.history ++ [.hook s.ctx.line], freeIdx := s.freeIdx + 1 } ∨
      exec .checkShouldReset s = .next { resetOf s with freeIdx := s.freeIdx + 1 }

/-! ## Descriptors -/

/-- GET_DESCRIPTOR, by type and index: the device descriptor, the configuration set, the languages, the two strings, each cut
to the packet's length; the status stage alone for string 3; false for every other index and type (R215 to R217, R230 to
R235; the bytes are D24 to D26, D50, D57 to D59). The bytes depend on the parameters only (R236). -/
def Obligations.GetDescriptorAnswersByType : Prop :=
  ∀ (sp : SetupPacket) (s : State) (i : Instr), s.dma = none →
    i = .getDescriptor sp ∨ i = .getDescriptorSelect sp →
    (sp.valueHigh = 0x01#8 → ∃ u, Sent s u (deviceBytes.take sp.length.toNat) ∧
      exec i s = .next { u with ret := .bool true }) ∧
    (sp.valueHigh = 0x02#8 → ∃ u, Sent s u (configBytes.take sp.length.toNat) ∧
      exec i s = .next { u with ret := .bool true }) ∧
    (sp.valueHigh = 0x03#8 → sp.valueLow = 0x00#8 → ∃ u,
      Sent s u ([0x04#8, 0x03#8, 0x09#8, 0x04#8].take sp.length.toNat) ∧ exec i s = .next { u with ret := .bool true }) ∧
    (sp.valueHigh = 0x03#8 → sp.valueLow = 0x01#8 → ∃ u,
      Sent s u ((stringBytes Config.strManufacturer).take sp.length.toNat) ∧
      exec i s = .next { u with ret := .bool true }) ∧
    (sp.valueHigh = 0x03#8 → sp.valueLow = 0x02#8 → ∃ u,
      Sent s u ((stringBytes Config.strProduct).take sp.length.toNat) ∧
      exec i s = .next { u with ret := .bool true }) ∧
    (sp.valueHigh = 0x03#8 → sp.valueLow = 0x03#8 →
      exec i s = .next { s with history := s.history ++ [.status], ret := .bool true }) ∧
    (sp.valueHigh = 0x03#8 → 3 < sp.valueLow.toNat → exec i s = .next { s with ret := .bool false }) ∧
    (sp.valueHigh = 0x00#8 ∨ 3 < sp.valueHigh.toNat → exec i s = .next { s with ret := .bool false })

/-- No request's response is longer than the EP0 IN buffer, whatever the OPEN strings are: no setup packet makes phase C
record ResponseTooLong (R190, R233, R265: "never raised under the parameter constraints"). -/
def Obligations.NoResponseIsTooLong : Prop :=
  ∀ (sp : SetupPacket) (s t : State) (k : Nat),
    exec (.dispatchSetup sp) s = .next t → .responseTooLong k ∈ t.faults → .responseTooLong k ∈ s.faults

/-- RESPOND sends the first `sp.length` bytes of the descriptor, all of it when the host asks for more, and records
ResponseTooLong when what is left does not fit the buffer (R190, R216; D23). -/
def Obligations.RespondCutsToLength : Prop :=
  ∀ (sp : SetupPacket) (d : List Byte) (s : State),
    (s.dma = none → min d.length sp.length.toNat ≤ 256 →
      ∃ u, Sent s u (d.take sp.length.toNat) ∧ exec (.respond sp d) s = .next { u with ret := .bool true }) ∧
    (256 < min d.length sp.length.toNat →
      exec (.respond sp d) s
        = .next { withFault s (.responseTooLong (min d.length sp.length.toNat)) with ret := .bool true })

/-! ## Endpoint I/O -/

/-- SEND_USB_PACKET with no transfer in flight: on endpoint 0 one packet, or the first 64 bytes with a continuation; on the
other endpoints one packet from the endpoint's own buffer; more than the buffer holds is ResponseTooLong and sends nothing
(R190; D27, D29). -/
def Obligations.SendUsbPacketSplitsControlOnly : Prop :=
  ∀ (n : Ep) (data : List Byte) (s : State),
    (s.dma = none → data.length ≤ 256 → ∃ t, Sent s t data ∧ exec (.sendUsbPacket .ep0 data) s = .next t) ∧
    (s.dma = none → n ≠ .ep0 → data.length ≤ capacity (inBuf n) →
      ∃ m, Wrote s.mem m (inBuf n) 0 data ∧
        exec (.sendUsbPacket n data) s = .next { s with
          mem := m
          reg := { s.reg with
            epInPtr := s.reg.epInPtr.set n ⟨inBuf n, 0#16⟩
            epInMaxCnt := s.reg.epInMaxCnt.set n (BitVec.ofNat 16 data.length) }
          dma := some ⟨.dirIn, n, inBuf n, 0#16, BitVec.ofNat 16 data.length⟩ }) ∧
    (capacity (inBuf n) < data.length →
      exec (.sendUsbPacket n data) s = .next (withFault s (.responseTooLong data.length)))

/-- SEND_CONTINUATION from any state: the registers are programmed with at most 64 bytes from the offset on, the start is
made, or refused as DmaContention or DmaBounds, and what is left is recorded all the same (R191, R192, R302; D28, D36; the
offset and the rest are 16-bit values, log 25; that the machine goes on is log 13). -/
def Obligations.SendContinuationAdvances : Prop :=
  ∀ (off rem : Half) (s u : State),
    u = started
        { s with reg := { s.reg with
          epInPtr := { s.reg.epInPtr with e0 := ⟨.ep0In, off⟩ }
          epInMaxCnt := { s.reg.epInMaxCnt with e0 := BitVec.ofNat 16 (min rem.toNat 64) } } }
        .dirIn .ep0 .ep0In off (BitVec.ofNat 16 (min rem.toNat 64)) →
    exec (.sendContinuation off rem) s = .next { u with
      ctx := { s.ctx with
        pending := if rem.toNat ≤ 64 then none else some ⟨off + 64#16, rem - 64#16⟩ } }

/-- A control response split across packets keeps its order: from any state with no transfer in flight, the packets loaded
for a response of at most 256 bytes are bytes 64k to min(64k+64, L) of it, and together they are the whole response
(R63, R190, R191, R196). -/
def Obligations.ResponsePacketsKeepByteOrder : Prop :=
  ∀ (s t : State) (data : List Byte), s.dma = none → data.length ≤ 256 →
    exec (.sendUsbPacket .ep0 data) s = .next t →
    ∃ ps, SendsPackets t ps ∧ ps.flatten = data ∧
      ∀ k p, ps[k]? = some p → p = (data.drop (64 * k)).take 64

/-- DMA_START: a start with nothing in flight and a region inside its buffer starts the transfer the registers describe; a
region that leaves the buffer is DmaBounds, a transfer in flight is DmaContention, and neither starts anything (R61, R192;
D36, D44). -/
def Obligations.DmaStartChecksChannelAndBounds : Prop :=
  ∀ (dir : Dir) (n : Ep) (s : State) (ref : BufRef) (cnt : Half),
    ref = (match dir with | .dirIn => s.reg.epInPtr.get n | .dirOut => s.reg.epOutPtr.get n) →
    cnt = (match dir with | .dirIn => s.reg.epInMaxCnt.get n | .dirOut => s.reg.epOutMaxCnt.get n) →
    exec (.dmaStart dir n) s = .next
      (match s.dma with
       | some x => withFault s (.dmaContention x dir n)
       | none =>
         if ref.off.toNat + cnt.toNat ≤ capacity ref.buf then
           { s with dma := some ⟨dir, n, ref.buf, ref.off, cnt⟩ }
         else withFault s (.dmaBounds ref.buf ref.off.toNat cnt.toNat))

/-- SEND_VIA_EP_IN writes the pointer and the count and makes the start; START_EP0_OUT_READ does so for 64 bytes into the EP0
OUT buffer. From any state, and without reading the guard: a start under a transfer in flight is DmaContention, a region
outside its buffer is DmaBounds, and the registers are written all the same (R189, R192, R193, R302; D36, D40, D44; that
the machine goes on is log 13). -/
def Obligations.UnguardedStartsProgramAndStart : Prop :=
  ∀ (n : Ep) (buf : BufId) (off cnt : Half) (s : State),
    exec (.sendViaEpIn n buf off cnt) s = .next
      (started
        { s with reg := { s.reg with
          epInPtr := s.reg.epInPtr.set n ⟨buf, off⟩, epInMaxCnt := s.reg.epInMaxCnt.set n cnt } }
        .dirIn n buf off cnt) ∧
    exec .startEp0OutRead s = .next
      (started
        { s with reg := { s.reg with
          epOutPtr := { s.reg.epOutPtr with e0 := ⟨.ep0Out, 0#16⟩ }
          epOutMaxCnt := { s.reg.epOutMaxCnt with e0 := 64#16 } } }
        .dirOut .ep0 .ep0Out 0#16 64#16)

/-- ENTER_CS tests and sets the guard in one step when it is free and waits, changing nothing, when it is held; EXIT_CS clears
it, also when it is clear already (R186, R188). -/
def Obligations.GuardIsTestAndSet : Prop :=
  ∀ s : State,
    (AtPhase s .idle → s.ctx.dmaBusy = false →
      exec .enterCs s = .next { s with ctx := { s.ctx with dmaBusy := true } }) ∧
    (AtPhase s .idle → s.ctx.dmaBusy = true → exec .enterCs s = .next s) ∧
    exec .exitCs s = .next { s with ctx := { s.ctx with dmaBusy := false } }

/-- BULK_OUT_DONE hangs with the guard held; with it free it takes the guard and starts an OUT transfer of the received size
into the endpoint's buffer, or, with a transfer in flight or a size the buffer does not hold, records DmaContention or
DmaBounds with the guard taken (R187, R192, R194, R302; D36, D39; the hang as a field is log 15, that the machine goes on
log 13). -/
def Obligations.BulkOutDoneStartsReceivedSize : Prop :=
  ∀ (n : Ep) (s : State) (cnt : Half), cnt.toNat = (s.reg.sizeEpOut.get n).toNat →
    (s.ctx.dmaBusy = true → exec (.bulkOutDone n) s = .next { s with hang := some .irqSpinDeadlock }) ∧
    (s.ctx.dmaBusy = false →
      exec (.bulkOutDone n) s = .next
        (started
          { s with
            ctx := { s.ctx with dmaBusy := true }
            reg := { s.reg with
              epOutPtr := s.reg.epOutPtr.set n ⟨outBuf n, 0#16⟩, epOutMaxCnt := s.reg.epOutMaxCnt.set n cnt } }
          .dirOut n (outBuf n) 0#16 cnt))

/-- BULK_OUT_DELIVER pushes the `AMOUNT` bytes of the endpoint's buffer in order, re-arms the endpoint and releases the guard;
RING_PUSH pushes one byte; each byte pushed is handed to the ring sink, whose answer is free (R195, R197; the release is
D35, the sink's record log 21; that the write to SIZE_EPOUT only re-arms and leaves the count it reads as is read from R37,
log 18). With any transfer in flight and any bytes unwritten: a read that races an OUT transfer is
BufferRace, an unwritten byte is UninitRead and its value is free, and the delivery goes on (R72, R265; log 11, log 13,
log 14). -/
def Obligations.BulkOutDeliverPushesInOrder : Prop :=
  ∀ (n : Ep) (s : State) (data : List Byte) (b : Byte),
    (data.length = (s.reg.epOutAmount.get n).toNat → Holds s.mem (outBuf n) 0 data →
      (∀ j, j < data.length → ¬ RacedRead s (outBuf n) j) →
      exec (.bulkOutDeliver n) s = .next { s with
        ctx := { s.ctx with dmaBusy := false }
        bus := { s.bus with outArmed := s.bus.outArmed.set n true }
        history := s.history ++ data.map HistoryEvent.push
        sink := s.sink ++ handed s.freeIdx data
        freeIdx := s.freeIdx + data.length }) ∧
    (∃ (bytes : List Byte) (fs : List FaultRecord) (k : Nat), bytes.length = (s.reg.epOutAmount.get n).toNat ∧
      (∀ j c, j < bytes.length → s.mem.load (outBuf n) j = some c → bytes[j]? = some c) ∧
      AfterRead s (outBuf n) bytes.length fs ∧ s.freeIdx ≤ k ∧
      exec (.bulkOutDeliver n) s = .next { s with
        ctx := { s.ctx with dmaBusy := false }
        bus := { s.bus with outArmed := s.bus.outArmed.set n true }
        faults := fs
        history := s.history ++ bytes.map HistoryEvent.push
        sink := s.sink ++ handed k bytes
        freeIdx := k + bytes.length }) ∧
    exec (.ringPush b) s = .next { s with
      history := s.history ++ [.push b]
      sink := s.sink ++ [⟨b, Config.ringSink s.freeIdx b⟩]
      freeIdx := s.freeIdx + 1 }

/-- DMA_COMPLETE: an IN transfer loads the packet of its buffer's bytes; an OUT transfer stores at most `cnt` bytes of the held
packet, reports how many, and frees it; each raises its end event and frees the channel. Without a transfer, or for an OUT
transfer without a packet, the step is not enabled (R196; D39), and the operation then changes nothing (log 2). -/
def Obligations.DmaCompleteMovesThePacket : Prop :=
  ∀ s : State,
    (s.dma = none → exec .dmaComplete s = .next s) ∧
    (∀ (n : Ep) (buf : BufId) (off cnt : Half) (data : List Byte), s.dma = some ⟨.dirIn, n, buf, off, cnt⟩ →
      data.length = cnt.toNat → Holds s.mem buf off.toNat data →
      exec .dmaComplete s = .next { s with
        dma := none
        bus := { s.bus with inLoaded := s.bus.inLoaded.set n (some data) }
        reg := { s.reg with events := { s.reg.events with endEpIn := s.reg.events.endEpIn.set n true } } }) ∧
    (∀ (n : Ep) (buf : BufId) (off cnt : Half), s.dma = some ⟨.dirOut, n, buf, off, cnt⟩ →
      s.bus.outData.get n = none → exec .dmaComplete s = .next s) ∧
    (∀ (n : Ep) (buf : BufId) (off cnt : Half) (d : List Byte), s.dma = some ⟨.dirOut, n, buf, off, cnt⟩ →
      s.bus.outData.get n = some d → off.toNat + cnt.toNat ≤ capacity buf →
      ∃ m, Wrote s.mem m buf off.toNat (d.take cnt.toNat) ∧
        exec .dmaComplete s = .next { s with
          dma := none
          mem := m
          bus := { s.bus with outData := s.bus.outData.set n none }
          reg := { s.reg with
            epOutAmount := s.reg.epOutAmount.set n (BitVec.ofNat 16 (min d.length cnt.toNat))
            events := { s.reg.events with endEpOut := s.reg.events.endEpOut.set n true } } })

/-- An IN transfer that reads a byte no rule has written records UninitRead for that byte and still completes: the channel is
free, a packet of `cnt` bytes is loaded, and its written bytes are those of the buffer; the unwritten byte's value is free
(R28, R196, R265; that the machine goes on is log 13, the free value log 11). -/
def Obligations.UnwrittenByteIsRecorded : Prop :=
  ∀ (s : State) (x : Transfer) (j : Nat), s.dma = some x → x.dir = .dirIn → j < x.cnt.toNat →
    s.mem.load x.buf (x.off.toNat + j) = none →
    ∃ t bytes, exec .dmaComplete s = .next t ∧ .uninitRead x.buf (x.off.toNat + j) ∈ t.faults ∧ t.dma = none ∧
      t.bus = { s.bus with inLoaded := s.bus.inLoaded.set x.ep (some bytes) } ∧ bytes.length = x.cnt.toNat ∧
      t.mem = s.mem ∧
      ∀ k b, k < x.cnt.toNat → s.mem.load x.buf (x.off.toNat + k) = some b → bytes[k]? = some b

/-- A block write to a byte of the region of the transfer in flight records BufferRace for that byte: a new response written
while the EP0 IN buffer is under DMA (R72, R303; that the write still lands is log 14). -/
def Obligations.BufferReuseIsARace : Prop :=
  ∀ (s : State) (x : Transfer) (data : List Byte) (j : Nat), s.dma = some x → x.buf = .ep0In → data.length ≤ 256 →
    j < data.length → x.off.toNat ≤ j → j < x.off.toNat + x.cnt.toNat →
    ∃ t, exec (.sendUsbPacket .ep0 data) s = .next t ∧ .bufferRace .ep0In j ∈ t.faults ∧
      .dmaContention x .dirIn .ep0 ∈ t.faults ∧ t.dma = some x ∧ Wrote s.mem t.mem .ep0In 0 data

/-! ## The facade -/

/-- CONFIGURE enables the peripheral and the eight causes and installs the handler; the pullup and the context otherwise stay
(R245; the set of causes is D41). -/
def Obligations.ConfigureEnablesEightCauses : Prop :=
  ∀ s : State, CallMayRun s .configure →
    exec .configure s = .next { s with
      ctx := { s.ctx with handlerInstalled := true, fg := .ready }
      reg := { s.reg with
        enable := true
        inten := ⟨true, true, true, true, ⟨true, true, true, true⟩⟩ } }

/-- WRITE_BYTE: success with nothing done while neither DTR nor RTS is set; a spin while the guard is held; else the guard is
taken and one packet of the byte is started, or refused as DmaContention when another transfer is in flight.
WRITE_BYTE_SPIN is one more iteration of the same acquisition (R186, R246, R247; D34, D48). -/
def Obligations.WriteByteSendsOnePacket : Prop :=
  ∀ (b : Byte) (s : State),
    (CallMayRun s (.writeByte b) → s.ctx.line.lineState = 0#2 →
      exec (.writeByte b) s = .next { s with ctx := { s.ctx with fg := .ready }, ret := .success }) ∧
    (CallMayRun s (.writeByte b) → s.ctx.line.lineState ≠ 0#2 → s.ctx.dmaBusy = true →
      exec (.writeByte b) s = .next { s with ctx := { s.ctx with fg := .spin b } }) ∧
    (AtPhase s .idle → s.ctx.fg = .spin b → s.ctx.dmaBusy = true → exec .writeByteSpin s = .next s) ∧
    (∀ i, (i = .writeByte b ∧ CallMayRun s (.writeByte b) ∧ s.ctx.line.lineState ≠ 0#2) ∨
        (i = .writeByteSpin ∧ AtPhase s .idle ∧ s.ctx.fg = .spin b) → s.ctx.dmaBusy = false →
      (s.dma = none →
        ∃ m, Wrote s.mem m .epIn3 0 [b] ∧
          exec i s = .next { s with
            ctx := { s.ctx with dmaBusy := true, fg := .ready }
            mem := m
            reg := { s.reg with
              epInPtr := { s.reg.epInPtr with e3 := ⟨.epIn3, 0#16⟩ }
              epInMaxCnt := { s.reg.epInMaxCnt with e3 := 1#16 } }
            dma := some ⟨.dirIn, .ep3, .epIn3, 0#16, 1#16⟩
            ret := .success }) ∧
      (∀ x, s.dma = some x →
        ∃ t, exec i s = .next t ∧ t.dma = some x ∧ .dmaContention x .dirIn .ep3 ∈ t.faults ∧
          t.ctx = { s.ctx with dmaBusy := true, fg := .ready } ∧ t.ret = .success))

/-- DTR returns bit 0 of the line state and RTS bit 1 (R248, R249; the value is kept in `ret`, log 7). Nothing else of the
context is written but that the call has ended and `FG` is Ready (R29, R250; the entry of calls is log 24). -/
def Obligations.DtrAndRtsReadLineState : Prop :=
  ∀ s : State,
    (CallMayRun s .dtr →
      exec .dtr s = .next { s with
        ctx := { s.ctx with fg := .ready }, ret := .bool (decide (s.ctx.line.lineState.toNat % 2 = 1)) }) ∧
    (CallMayRun s .rts →
      exec .rts s = .next { s with
        ctx := { s.ctx with fg := .ready }, ret := .bool (decide (s.ctx.line.lineState.toNat / 2 = 1)) })

/-! ## The host -/

/-- `HOST ready` is enabled once the peripheral is, empties the bus side and latches the READY cause; `HOST setup` is enabled
with the pullup on and READY seen, fills the setup registers, drops what endpoint 0 holds and raises its event. When not
enabled they change nothing (R275, R276; D51, log 2). -/
def Obligations.HostReadyAndSetup : Prop :=
  ∀ (s : State) (rest : List Turn) (b0 b1 b2 b3 b4 b5 b6 b7 : Byte),
    (s.sched = .host .ready :: rest →
      step s = .next
        (if s.reg.enable = true then
          { s with
            sched := rest
            bus := ⟨true, ⟨none, none, none, none⟩, ⟨none, none, none, none⟩, ⟨false, false, false, false⟩, false⟩
            reg := { s.reg with
              events := { s.reg.events with usbEvent := true }
              eventCause := { s.reg.eventCause with ready := true } } }
         else { s with sched := rest })) ∧
    (s.sched = .host (.setup b0 b1 b2 b3 b4 b5 b6 b7) :: rest →
      step s = .next
        (if s.reg.enable = true ∧ s.reg.usbPullup = true ∧ s.bus.ready = true then
          { s with
            sched := rest
            bus := { s.bus with
              inLoaded := { s.bus.inLoaded with e0 := none }
              outData := { s.bus.outData with e0 := none }
              ep0RcvArmed := false }
            reg := { s.reg with
              setup := ⟨b0, b1, b2, b3, b4, b5, b6, b7⟩
              events := { s.reg.events with ep0Setup := true } } }
         else { s with sched := rest }))

/-- `HOST in n` takes a loaded packet of an enabled endpoint and raises data-done (endpoint 0) or the IN-done bit and the data
event; `HOST out n d` gives an armed, enabled endpoint a packet of at most 64 bytes, with its size, OUT-done bit and event,
or endpoint 0 the data of its OUT stage. When not enabled they change nothing (R34, R277, R278; D51, log 2). -/
def Obligations.HostInAndOut : Prop :=
  ∀ (s : State) (rest : List Turn) (n : Ep) (d : List Byte),
    (s.sched = .host (.takeIn n) :: rest →
      (∀ p, s.bus.inLoaded.get n = some p → s.reg.epInEn.getLsbD (epNum n) = true → s.reg.usbPullup = true →
        ∃ t, step s = .next { t with
            sched := rest
            history := s.history ++ [.tx n p]
            bus := { s.bus with inLoaded := s.bus.inLoaded.set n none } } ∧
          (n = .ep0 → t = { s with reg := { s.reg with events := { s.reg.events with ep0DataDone := true } } }) ∧
          (n ≠ .ep0 → t = { s with reg := { s.reg with
            events := { s.reg.events with epData := true }
            epDataStatus := s.reg.epDataStatus ||| (1#32 <<< epNum n) } })) ∧
      (s.bus.inLoaded.get n = none ∨ s.reg.epInEn.getLsbD (epNum n) = false ∨ s.reg.usbPullup = false →
        step s = .next { s with sched := rest })) ∧
    (s.sched = .host (.sendOut .ep0 d) :: rest →
      step s = .next
        (if d.length ≤ 64 ∧ s.bus.ep0RcvArmed = true then
          { s with
            sched := rest
            bus := { s.bus with outData := { s.bus.outData with e0 := some d }, ep0RcvArmed := false }
            reg := { s.reg with events := { s.reg.events with ep0DataDone := true } } }
         else { s with sched := rest })) ∧
    (n ≠ .ep0 → s.sched = .host (.sendOut n d) :: rest →
      step s = .next
        (if d.length ≤ 64 ∧ s.reg.epOutEn.getLsbD (epNum n) = true ∧ s.bus.outArmed.get n = true then
          { s with
            sched := rest
            bus := { s.bus with
              outData := s.bus.outData.set n (some d), outArmed := s.bus.outArmed.set n false }
            reg := { s.reg with
              events := { s.reg.events with epData := true }
              sizeEpOut := s.reg.sizeEpOut.set n (BitVec.ofNat 8 d.length)
              epDataStatus := s.reg.epDataStatus ||| (1#32 <<< (16 + epNum n)) } }
         else { s with sched := rest }))
end

