-- ==== Sys2Proof/Laws/Memory.lean ====
section
/-! SUPPORT. The laws of the staging memory: read after write, the other bytes, and that every write keeps the canonical
form. -/

namespace Sys2Proof.Machine

/-! ## Keys -/

/-- The key of a byte of a buffer lies inside the memory. -/
theorem bufKey_lt_memSize {buf : BufId} {off : Nat} (h : off < capacity buf) : bufKey buf off < memSize := by
  cases buf <;> simp_all [bufKey, bufBase, capacity, memSize, Config.ctrlInBuf, Config.intPkt] <;> omega

/-- Different bytes of the buffers have different keys. -/
theorem bufKey_inj {b b' : BufId} {o o' : Nat} (h : o < capacity b) (h' : o' < capacity b')
    (he : bufKey b o = bufKey b' o') : b = b' ∧ o = o' := by
  cases b <;> cases b' <;> simp_all [bufKey, bufBase, capacity, Config.ctrlInBuf, Config.intPkt] <;> omega

namespace Memory

/-! ## One byte -/

theorem get_set_same (m : Memory) (a : Nat) (v : Byte) : get (set m a v) a = some v := by
  induction m with
  | nil => simp [set, get]
  | cons c m ih =>
    obtain ⟨k, b⟩ := c
    simp only [set]
    split
    · simp [get]
    · split
      · simp [get]
      · have hk : k ≠ a := by omega
        simp [get, hk, ih]

theorem get_set_other {m : Memory} {a a' : Nat} {v : Byte} (h : a' ≠ a) : get (set m a v) a' = get m a' := by
  induction m with
  | nil => simp [set, get, h.symm]
  | cons c m ih =>
    obtain ⟨k, b⟩ := c
    simp only [set]
    split
    · simp [get, h.symm]
    · split
      · rename_i hk
        subst hk
        simp [get, h.symm]
      · simp [get, ih]

theorem risingFrom_set {lo : Nat} {m : Memory} {a : Nat} {v : Byte} (hm : risingFrom lo m = true) (hlo : lo ≤ a)
    (ha : a < memSize) : risingFrom lo (set m a v) = true := by
  induction m generalizing lo with
  | nil => simp [set, risingFrom, hlo, ha]
  | cons c m ih =>
    obtain ⟨k, b⟩ := c
    simp only [risingFrom, Bool.and_eq_true, decide_eq_true_eq] at hm
    obtain ⟨⟨h1, h2⟩, h3⟩ := hm
    simp only [set]
    split
    · rename_i hak
      simp [risingFrom, hlo, ha, h2, h3, Nat.succ_le_of_lt hak]
    · split
      · rename_i hk
        subst hk
        simp [risingFrom, hlo, ha, h3]
      · rename_i h4 h5
        simp [risingFrom, h1, h2, ih h3 (show k + 1 ≤ a by omega)]

/-! ## A byte of a buffer -/

/-- A store of one byte keeps the canonical form. -/
theorem wf_store {m : Memory} (hm : wf m = true) (buf : BufId) (off : Nat) (b : Byte) : wf (store m buf off b) = true := by
  unfold store
  split
  · rename_i h
    exact risingFrom_set hm (Nat.zero_le _) (bufKey_lt_memSize h)
  · exact hm

/-- A store of a byte sequence keeps the canonical form. -/
theorem wf_storeAll {m : Memory} (hm : wf m = true) (buf : BufId) (off : Nat) (data : List Byte) :
    wf (storeAll m buf off data) = true := by
  induction data generalizing m off with
  | nil => exact hm
  | cons b bs ih => exact ih (wf_store hm buf off b) (off + 1)

theorem wf_nil : wf [] = true := rfl

/-- Read after a store of one byte. -/
theorem load_store (m : Memory) (buf buf' : BufId) (off off' : Nat) (b : Byte) (h : off < capacity buf) :
    load (store m buf off b) buf' off' = if buf' = buf ∧ off' = off then some b else load m buf' off' := by
  unfold load store
  by_cases h' : off' < capacity buf'
  · simp only [h, h', if_true]
    by_cases he : buf' = buf ∧ off' = off
    · obtain ⟨rfl, rfl⟩ := he
      simp [get_set_same]
    · rw [get_set_other, if_neg he]
      intro hk
      exact he (bufKey_inj h' h hk)
  · rw [if_neg h', if_neg h', if_neg]
    rintro ⟨rfl, rfl⟩
    exact h' h

/-- Read after a store of a byte sequence that fits its buffer: the bytes written, and every other byte as before. -/
theorem load_storeAll (m : Memory) (buf buf' : BufId) (off off' : Nat) (data : List Byte)
    (h : off + data.length ≤ capacity buf) :
    load (storeAll m buf off data) buf' off'
      = if buf' = buf ∧ off ≤ off' ∧ off' < off + data.length then data[off' - off]? else load m buf' off' := by
  induction data generalizing m off with
  | nil =>
    have : ¬ (buf' = buf ∧ off ≤ off' ∧ off' < off + 0) := by omega
    simp only [storeAll, List.length_nil, if_neg this]
  | cons b bs ih =>
    simp only [List.length_cons] at h ⊢
    rw [storeAll, ih _ _ (by omega), load_store _ _ _ _ _ _ (by omega)]
    by_cases hb : buf' = buf
    · by_cases h1 : off' = off
      · subst h1
        have h2 : ¬ (off' + 1 ≤ off') := by omega
        simp [hb, h2]
      · by_cases h3 : off ≤ off' ∧ off' < off + (bs.length + 1)
        · have e : off' - off = (off' - (off + 1)) + 1 := by omega
          rw [if_pos ⟨hb, by omega, by omega⟩, if_pos ⟨hb, h3⟩, e, List.getElem?_cons_succ]
        · rw [if_neg (fun c => h3 ⟨by omega, by omega⟩), if_neg (fun c => h1 c.2), if_neg (fun c => h3 c.2)]
    · simp [hb]

end Memory

/-! ## Reads -/

@[simp] theorem peekAll_length (s : State) (buf : BufId) (off n : Nat) : (peekAll s buf off n).length = n := by
  induction n generalizing off with
  | zero => rfl
  | succ n ih => simp [peekAll, ih]

/-- Each byte of a read is the byte at its place. -/
theorem peekAll_getElem? (s : State) (buf : BufId) (off n j : Nat) (h : j < n) :
    (peekAll s buf off n)[j]? = some (peek s buf (off + j)) := by
  induction n generalizing off j with
  | zero => omega
  | succ n ih =>
    cases j with
    | zero => simp [peekAll]
    | succ j => simp [peekAll, ih (off + 1) j (by omega), Nat.add_assoc, Nat.add_comm 1 j]

/-- A byte that was written reads as itself. -/
theorem peek_of_load {s : State} {buf : BufId} {off : Nat} {b : Byte} (h : s.mem.load buf off = some b) :
    peek s buf off = b := by
  simp [peek, h]

/-- A read of a region whose bytes are known gives them. -/
theorem peekAll_of_load {s : State} {buf : BufId} {off : Nat} {data : List Byte}
    (h : ∀ j, j < data.length → s.mem.load buf (off + j) = data[j]?) : peekAll s buf off data.length = data := by
  apply List.ext_getElem?
  intro j
  by_cases hj : j < data.length
  · rw [peekAll_getElem? _ _ _ _ _ hj]
    have hb := h j hj
    rw [List.getElem?_eq_getElem hj] at hb ⊢
    rw [peek_of_load hb]
  · rw [List.getElem?_eq_none (by simpa using hj), List.getElem?_eq_none (by simpa using hj)]

/-- No byte of a region is unwritten, so a read of it raises nothing. -/
theorem uninitFaults_nil {m : Memory} {buf : BufId} {off n : Nat}
    (h : ∀ j, j < n → (m.load buf (off + j)).isSome) : uninitFaults m buf off n = [] := by
  induction n generalizing off with
  | zero => rfl
  | succ n ih =>
    have h0 := h 0 (by omega)
    have hr : uninitFaults m buf (off + 1) n = [] :=
      ih (fun j hj => by have := h (j + 1) (by omega); rwa [show off + 1 + j = off + (j + 1) by omega])
    simp only [Nat.add_zero] at h0
    simp [uninitFaults, hr, Option.isSome_iff_ne_none.mp h0]

/-- Without a transfer in flight nothing races. -/
@[simp] theorem raceFaults_none (write : Bool) (buf : BufId) (off n : Nat) : raceFaults none write buf off n = [] := by
  induction n generalizing off with
  | zero => rfl
  | succ n ih => simp [raceFaults, races, ih]

/-- The BufferRace records of an access: one for each raced byte (R72). -/
theorem mem_raceFaults {d : Option Transfer} {write : Bool} {buf : BufId} {off n : Nat} {r : FaultRecord} :
    r ∈ raceFaults d write buf off n
      ↔ ∃ j, j < n ∧ races d write buf (off + j) = true ∧ r = .bufferRace buf (off + j) := by
  induction n generalizing off with
  | zero => simp [raceFaults]
  | succ n ih =>
    rw [raceFaults, List.mem_append, ih]
    constructor
    · rintro (h | ⟨j, hj, hr, e⟩)
      · split at h
        · exact ⟨0, by omega, ‹_›, by simpa using h⟩
        · cases h
      · exact ⟨j + 1, by omega, by rwa [show off + (j + 1) = off + 1 + j by omega],
          by rwa [show off + (j + 1) = off + 1 + j by omega]⟩
    · rintro ⟨j, hj, hr, e⟩
      cases j with
      | zero => exact .inl (by simp_all)
      | succ j =>
        exact .inr ⟨j, by omega, by rwa [show off + 1 + j = off + (j + 1) by omega],
          by rwa [show off + 1 + j = off + (j + 1) by omega]⟩

/-- The UninitRead records of a read: one for each unwritten byte (R265). -/
theorem mem_uninitFaults {m : Memory} {buf : BufId} {off n : Nat} {r : FaultRecord} :
    r ∈ uninitFaults m buf off n ↔ ∃ j, j < n ∧ m.load buf (off + j) = none ∧ r = .uninitRead buf (off + j) := by
  induction n generalizing off with
  | zero => simp [uninitFaults]
  | succ n ih =>
    rw [uninitFaults, List.mem_append, ih]
    constructor
    · rintro (h | ⟨j, hj, hr, e⟩)
      · split at h
        · exact ⟨0, by omega, by simpa using ‹(m.load buf off).isNone = true›, by simpa using h⟩
        · cases h
      · exact ⟨j + 1, by omega, by rwa [show off + (j + 1) = off + 1 + j by omega],
          by rwa [show off + (j + 1) = off + 1 + j by omega]⟩
    · rintro ⟨j, hj, hr, e⟩
      cases j with
      | zero => exact .inl (by simp_all)
      | succ j =>
        exact .inr ⟨j, by omega, by rwa [show off + 1 + j = off + (j + 1) by omega],
          by rwa [show off + 1 + j = off + (j + 1) by omega]⟩

end Sys2Proof.Machine
end

