-- ==== Sys2Proof/Laws/State.lean ====
section
/-! SUPPORT. One lemma per field of State and per field write of Machine/Ops.lean, so that no proof unfolds a record
update. -/

namespace Sys2Proof.Machine.State

variable (s : State)

@[simp] theorem setCtx_ctx (c : Ctx) : (s.setCtx c).ctx = c := rfl
@[simp] theorem setCtx_reg (c : Ctx) : (s.setCtx c).reg = s.reg := rfl
@[simp] theorem setCtx_dma (c : Ctx) : (s.setCtx c).dma = s.dma := rfl
@[simp] theorem setCtx_bus (c : Ctx) : (s.setCtx c).bus = s.bus := rfl
@[simp] theorem setCtx_mem (c : Ctx) : (s.setCtx c).mem = s.mem := rfl
@[simp] theorem setCtx_faults (c : Ctx) : (s.setCtx c).faults = s.faults := rfl
@[simp] theorem setCtx_history (c : Ctx) : (s.setCtx c).history = s.history := rfl
@[simp] theorem setCtx_sink (c : Ctx) : (s.setCtx c).sink = s.sink := rfl
@[simp] theorem setCtx_epDataSnap (c : Ctx) : (s.setCtx c).epDataSnap = s.epDataSnap := rfl
@[simp] theorem setCtx_hang (c : Ctx) : (s.setCtx c).hang = s.hang := rfl
@[simp] theorem setCtx_ret (c : Ctx) : (s.setCtx c).ret = s.ret := rfl
@[simp] theorem setCtx_freeIdx (c : Ctx) : (s.setCtx c).freeIdx = s.freeIdx := rfl
@[simp] theorem setCtx_sched (c : Ctx) : (s.setCtx c).sched = s.sched := rfl

@[simp] theorem setReg_ctx (r : Regs) : (s.setReg r).ctx = s.ctx := rfl
@[simp] theorem setReg_reg (r : Regs) : (s.setReg r).reg = r := rfl
@[simp] theorem setReg_dma (r : Regs) : (s.setReg r).dma = s.dma := rfl
@[simp] theorem setReg_bus (r : Regs) : (s.setReg r).bus = s.bus := rfl
@[simp] theorem setReg_mem (r : Regs) : (s.setReg r).mem = s.mem := rfl
@[simp] theorem setReg_faults (r : Regs) : (s.setReg r).faults = s.faults := rfl
@[simp] theorem setReg_history (r : Regs) : (s.setReg r).history = s.history := rfl
@[simp] theorem setReg_sink (r : Regs) : (s.setReg r).sink = s.sink := rfl
@[simp] theorem setReg_epDataSnap (r : Regs) : (s.setReg r).epDataSnap = s.epDataSnap := rfl
@[simp] theorem setReg_hang (r : Regs) : (s.setReg r).hang = s.hang := rfl
@[simp] theorem setReg_ret (r : Regs) : (s.setReg r).ret = s.ret := rfl
@[simp] theorem setReg_freeIdx (r : Regs) : (s.setReg r).freeIdx = s.freeIdx := rfl
@[simp] theorem setReg_sched (r : Regs) : (s.setReg r).sched = s.sched := rfl

@[simp] theorem setDma_ctx (d : Option Transfer) : (s.setDma d).ctx = s.ctx := rfl
@[simp] theorem setDma_reg (d : Option Transfer) : (s.setDma d).reg = s.reg := rfl
@[simp] theorem setDma_dma (d : Option Transfer) : (s.setDma d).dma = d := rfl
@[simp] theorem setDma_bus (d : Option Transfer) : (s.setDma d).bus = s.bus := rfl
@[simp] theorem setDma_mem (d : Option Transfer) : (s.setDma d).mem = s.mem := rfl
@[simp] theorem setDma_faults (d : Option Transfer) : (s.setDma d).faults = s.faults := rfl
@[simp] theorem setDma_history (d : Option Transfer) : (s.setDma d).history = s.history := rfl
@[simp] theorem setDma_sink (d : Option Transfer) : (s.setDma d).sink = s.sink := rfl
@[simp] theorem setDma_epDataSnap (d : Option Transfer) : (s.setDma d).epDataSnap = s.epDataSnap := rfl
@[simp] theorem setDma_hang (d : Option Transfer) : (s.setDma d).hang = s.hang := rfl
@[simp] theorem setDma_ret (d : Option Transfer) : (s.setDma d).ret = s.ret := rfl
@[simp] theorem setDma_freeIdx (d : Option Transfer) : (s.setDma d).freeIdx = s.freeIdx := rfl
@[simp] theorem setDma_sched (d : Option Transfer) : (s.setDma d).sched = s.sched := rfl

@[simp] theorem setBus_ctx (b : Bus) : (s.setBus b).ctx = s.ctx := rfl
@[simp] theorem setBus_reg (b : Bus) : (s.setBus b).reg = s.reg := rfl
@[simp] theorem setBus_dma (b : Bus) : (s.setBus b).dma = s.dma := rfl
@[simp] theorem setBus_bus (b : Bus) : (s.setBus b).bus = b := rfl
@[simp] theorem setBus_mem (b : Bus) : (s.setBus b).mem = s.mem := rfl
@[simp] theorem setBus_faults (b : Bus) : (s.setBus b).faults = s.faults := rfl
@[simp] theorem setBus_history (b : Bus) : (s.setBus b).history = s.history := rfl
@[simp] theorem setBus_sink (b : Bus) : (s.setBus b).sink = s.sink := rfl
@[simp] theorem setBus_epDataSnap (b : Bus) : (s.setBus b).epDataSnap = s.epDataSnap := rfl
@[simp] theorem setBus_hang (b : Bus) : (s.setBus b).hang = s.hang := rfl
@[simp] theorem setBus_ret (b : Bus) : (s.setBus b).ret = s.ret := rfl
@[simp] theorem setBus_freeIdx (b : Bus) : (s.setBus b).freeIdx = s.freeIdx := rfl
@[simp] theorem setBus_sched (b : Bus) : (s.setBus b).sched = s.sched := rfl

@[simp] theorem setMem_ctx (m : Memory) : (s.setMem m).ctx = s.ctx := rfl
@[simp] theorem setMem_reg (m : Memory) : (s.setMem m).reg = s.reg := rfl
@[simp] theorem setMem_dma (m : Memory) : (s.setMem m).dma = s.dma := rfl
@[simp] theorem setMem_bus (m : Memory) : (s.setMem m).bus = s.bus := rfl
@[simp] theorem setMem_mem (m : Memory) : (s.setMem m).mem = m := rfl
@[simp] theorem setMem_faults (m : Memory) : (s.setMem m).faults = s.faults := rfl
@[simp] theorem setMem_history (m : Memory) : (s.setMem m).history = s.history := rfl
@[simp] theorem setMem_sink (m : Memory) : (s.setMem m).sink = s.sink := rfl
@[simp] theorem setMem_epDataSnap (m : Memory) : (s.setMem m).epDataSnap = s.epDataSnap := rfl
@[simp] theorem setMem_hang (m : Memory) : (s.setMem m).hang = s.hang := rfl
@[simp] theorem setMem_ret (m : Memory) : (s.setMem m).ret = s.ret := rfl
@[simp] theorem setMem_freeIdx (m : Memory) : (s.setMem m).freeIdx = s.freeIdx := rfl
@[simp] theorem setMem_sched (m : Memory) : (s.setMem m).sched = s.sched := rfl

@[simp] theorem setSnap_ctx (v : BitVec 32) : (s.setSnap v).ctx = s.ctx := rfl
@[simp] theorem setSnap_reg (v : BitVec 32) : (s.setSnap v).reg = s.reg := rfl
@[simp] theorem setSnap_dma (v : BitVec 32) : (s.setSnap v).dma = s.dma := rfl
@[simp] theorem setSnap_bus (v : BitVec 32) : (s.setSnap v).bus = s.bus := rfl
@[simp] theorem setSnap_mem (v : BitVec 32) : (s.setSnap v).mem = s.mem := rfl
@[simp] theorem setSnap_faults (v : BitVec 32) : (s.setSnap v).faults = s.faults := rfl
@[simp] theorem setSnap_history (v : BitVec 32) : (s.setSnap v).history = s.history := rfl
@[simp] theorem setSnap_sink (v : BitVec 32) : (s.setSnap v).sink = s.sink := rfl
@[simp] theorem setSnap_epDataSnap (v : BitVec 32) : (s.setSnap v).epDataSnap = v := rfl
@[simp] theorem setSnap_hang (v : BitVec 32) : (s.setSnap v).hang = s.hang := rfl
@[simp] theorem setSnap_ret (v : BitVec 32) : (s.setSnap v).ret = s.ret := rfl
@[simp] theorem setSnap_freeIdx (v : BitVec 32) : (s.setSnap v).freeIdx = s.freeIdx := rfl
@[simp] theorem setSnap_sched (v : BitVec 32) : (s.setSnap v).sched = s.sched := rfl

@[simp] theorem setHang_ctx (h : Option HangKind) : (s.setHang h).ctx = s.ctx := rfl
@[simp] theorem setHang_reg (h : Option HangKind) : (s.setHang h).reg = s.reg := rfl
@[simp] theorem setHang_dma (h : Option HangKind) : (s.setHang h).dma = s.dma := rfl
@[simp] theorem setHang_bus (h : Option HangKind) : (s.setHang h).bus = s.bus := rfl
@[simp] theorem setHang_mem (h : Option HangKind) : (s.setHang h).mem = s.mem := rfl
@[simp] theorem setHang_faults (h : Option HangKind) : (s.setHang h).faults = s.faults := rfl
@[simp] theorem setHang_history (h : Option HangKind) : (s.setHang h).history = s.history := rfl
@[simp] theorem setHang_sink (h : Option HangKind) : (s.setHang h).sink = s.sink := rfl
@[simp] theorem setHang_epDataSnap (h : Option HangKind) : (s.setHang h).epDataSnap = s.epDataSnap := rfl
@[simp] theorem setHang_hang (h : Option HangKind) : (s.setHang h).hang = h := rfl
@[simp] theorem setHang_ret (h : Option HangKind) : (s.setHang h).ret = s.ret := rfl
@[simp] theorem setHang_freeIdx (h : Option HangKind) : (s.setHang h).freeIdx = s.freeIdx := rfl
@[simp] theorem setHang_sched (h : Option HangKind) : (s.setHang h).sched = s.sched := rfl

@[simp] theorem setRet_ctx (v : RetVal) : (s.setRet v).ctx = s.ctx := rfl
@[simp] theorem setRet_reg (v : RetVal) : (s.setRet v).reg = s.reg := rfl
@[simp] theorem setRet_dma (v : RetVal) : (s.setRet v).dma = s.dma := rfl
@[simp] theorem setRet_bus (v : RetVal) : (s.setRet v).bus = s.bus := rfl
@[simp] theorem setRet_mem (v : RetVal) : (s.setRet v).mem = s.mem := rfl
@[simp] theorem setRet_faults (v : RetVal) : (s.setRet v).faults = s.faults := rfl
@[simp] theorem setRet_history (v : RetVal) : (s.setRet v).history = s.history := rfl
@[simp] theorem setRet_sink (v : RetVal) : (s.setRet v).sink = s.sink := rfl
@[simp] theorem setRet_epDataSnap (v : RetVal) : (s.setRet v).epDataSnap = s.epDataSnap := rfl
@[simp] theorem setRet_hang (v : RetVal) : (s.setRet v).hang = s.hang := rfl
@[simp] theorem setRet_ret (v : RetVal) : (s.setRet v).ret = v := rfl
@[simp] theorem setRet_freeIdx (v : RetVal) : (s.setRet v).freeIdx = s.freeIdx := rfl
@[simp] theorem setRet_sched (v : RetVal) : (s.setRet v).sched = s.sched := rfl

@[simp] theorem setDev_ctx (d : DeviceState) : (s.setDev d).ctx = { s.ctx with dev := d } := rfl
@[simp] theorem setDev_reg (d : DeviceState) : (s.setDev d).reg = s.reg := rfl
@[simp] theorem setDev_dma (d : DeviceState) : (s.setDev d).dma = s.dma := rfl
@[simp] theorem setDev_bus (d : DeviceState) : (s.setDev d).bus = s.bus := rfl
@[simp] theorem setDev_mem (d : DeviceState) : (s.setDev d).mem = s.mem := rfl
@[simp] theorem setDev_faults (d : DeviceState) : (s.setDev d).faults = s.faults := rfl
@[simp] theorem setDev_history (d : DeviceState) : (s.setDev d).history = s.history := rfl
@[simp] theorem setDev_sink (d : DeviceState) : (s.setDev d).sink = s.sink := rfl
@[simp] theorem setDev_epDataSnap (d : DeviceState) : (s.setDev d).epDataSnap = s.epDataSnap := rfl
@[simp] theorem setDev_hang (d : DeviceState) : (s.setDev d).hang = s.hang := rfl
@[simp] theorem setDev_ret (d : DeviceState) : (s.setDev d).ret = s.ret := rfl
@[simp] theorem setDev_freeIdx (d : DeviceState) : (s.setDev d).freeIdx = s.freeIdx := rfl
@[simp] theorem setDev_sched (d : DeviceState) : (s.setDev d).sched = s.sched := rfl

@[simp] theorem setPhase_ctx (p : IrqPhase) : (s.setPhase p).ctx = { s.ctx with irqPhase := p } := rfl
@[simp] theorem setPhase_reg (p : IrqPhase) : (s.setPhase p).reg = s.reg := rfl
@[simp] theorem setPhase_dma (p : IrqPhase) : (s.setPhase p).dma = s.dma := rfl
@[simp] theorem setPhase_bus (p : IrqPhase) : (s.setPhase p).bus = s.bus := rfl
@[simp] theorem setPhase_mem (p : IrqPhase) : (s.setPhase p).mem = s.mem := rfl
@[simp] theorem setPhase_faults (p : IrqPhase) : (s.setPhase p).faults = s.faults := rfl
@[simp] theorem setPhase_history (p : IrqPhase) : (s.setPhase p).history = s.history := rfl
@[simp] theorem setPhase_sink (p : IrqPhase) : (s.setPhase p).sink = s.sink := rfl
@[simp] theorem setPhase_epDataSnap (p : IrqPhase) : (s.setPhase p).epDataSnap = s.epDataSnap := rfl
@[simp] theorem setPhase_hang (p : IrqPhase) : (s.setPhase p).hang = s.hang := rfl
@[simp] theorem setPhase_ret (p : IrqPhase) : (s.setPhase p).ret = s.ret := rfl
@[simp] theorem setPhase_freeIdx (p : IrqPhase) : (s.setPhase p).freeIdx = s.freeIdx := rfl
@[simp] theorem setPhase_sched (p : IrqPhase) : (s.setPhase p).sched = s.sched := rfl

@[simp] theorem setLine_ctx (l : LineInfo) : (s.setLine l).ctx = { s.ctx with line := l } := rfl
@[simp] theorem setLine_reg (l : LineInfo) : (s.setLine l).reg = s.reg := rfl
@[simp] theorem setLine_dma (l : LineInfo) : (s.setLine l).dma = s.dma := rfl
@[simp] theorem setLine_bus (l : LineInfo) : (s.setLine l).bus = s.bus := rfl
@[simp] theorem setLine_mem (l : LineInfo) : (s.setLine l).mem = s.mem := rfl
@[simp] theorem setLine_faults (l : LineInfo) : (s.setLine l).faults = s.faults := rfl
@[simp] theorem setLine_history (l : LineInfo) : (s.setLine l).history = s.history := rfl
@[simp] theorem setLine_sink (l : LineInfo) : (s.setLine l).sink = s.sink := rfl
@[simp] theorem setLine_epDataSnap (l : LineInfo) : (s.setLine l).epDataSnap = s.epDataSnap := rfl
@[simp] theorem setLine_hang (l : LineInfo) : (s.setLine l).hang = s.hang := rfl
@[simp] theorem setLine_ret (l : LineInfo) : (s.setLine l).ret = s.ret := rfl
@[simp] theorem setLine_freeIdx (l : LineInfo) : (s.setLine l).freeIdx = s.freeIdx := rfl
@[simp] theorem setLine_sched (l : LineInfo) : (s.setLine l).sched = s.sched := rfl

@[simp] theorem setPending_ctx (p : Option Pending) : (s.setPending p).ctx = { s.ctx with pending := p } := rfl
@[simp] theorem setPending_reg (p : Option Pending) : (s.setPending p).reg = s.reg := rfl
@[simp] theorem setPending_dma (p : Option Pending) : (s.setPending p).dma = s.dma := rfl
@[simp] theorem setPending_bus (p : Option Pending) : (s.setPending p).bus = s.bus := rfl
@[simp] theorem setPending_mem (p : Option Pending) : (s.setPending p).mem = s.mem := rfl
@[simp] theorem setPending_faults (p : Option Pending) : (s.setPending p).faults = s.faults := rfl
@[simp] theorem setPending_history (p : Option Pending) : (s.setPending p).history = s.history := rfl
@[simp] theorem setPending_sink (p : Option Pending) : (s.setPending p).sink = s.sink := rfl
@[simp] theorem setPending_epDataSnap (p : Option Pending) : (s.setPending p).epDataSnap = s.epDataSnap := rfl
@[simp] theorem setPending_hang (p : Option Pending) : (s.setPending p).hang = s.hang := rfl
@[simp] theorem setPending_ret (p : Option Pending) : (s.setPending p).ret = s.ret := rfl
@[simp] theorem setPending_freeIdx (p : Option Pending) : (s.setPending p).freeIdx = s.freeIdx := rfl
@[simp] theorem setPending_sched (p : Option Pending) : (s.setPending p).sched = s.sched := rfl

@[simp] theorem setLineCodingPending_ctx (b : Bool) : (s.setLineCodingPending b).ctx = { s.ctx with lineCodingPending := b } := rfl
@[simp] theorem setLineCodingPending_reg (b : Bool) : (s.setLineCodingPending b).reg = s.reg := rfl
@[simp] theorem setLineCodingPending_dma (b : Bool) : (s.setLineCodingPending b).dma = s.dma := rfl
@[simp] theorem setLineCodingPending_bus (b : Bool) : (s.setLineCodingPending b).bus = s.bus := rfl
@[simp] theorem setLineCodingPending_mem (b : Bool) : (s.setLineCodingPending b).mem = s.mem := rfl
@[simp] theorem setLineCodingPending_faults (b : Bool) : (s.setLineCodingPending b).faults = s.faults := rfl
@[simp] theorem setLineCodingPending_history (b : Bool) : (s.setLineCodingPending b).history = s.history := rfl
@[simp] theorem setLineCodingPending_sink (b : Bool) : (s.setLineCodingPending b).sink = s.sink := rfl
@[simp] theorem setLineCodingPending_epDataSnap (b : Bool) : (s.setLineCodingPending b).epDataSnap = s.epDataSnap := rfl
@[simp] theorem setLineCodingPending_hang (b : Bool) : (s.setLineCodingPending b).hang = s.hang := rfl
@[simp] theorem setLineCodingPending_ret (b : Bool) : (s.setLineCodingPending b).ret = s.ret := rfl
@[simp] theorem setLineCodingPending_freeIdx (b : Bool) : (s.setLineCodingPending b).freeIdx = s.freeIdx := rfl
@[simp] theorem setLineCodingPending_sched (b : Bool) : (s.setLineCodingPending b).sched = s.sched := rfl

@[simp] theorem setDmaBusy_ctx (b : Bool) : (s.setDmaBusy b).ctx = { s.ctx with dmaBusy := b } := rfl
@[simp] theorem setDmaBusy_reg (b : Bool) : (s.setDmaBusy b).reg = s.reg := rfl
@[simp] theorem setDmaBusy_dma (b : Bool) : (s.setDmaBusy b).dma = s.dma := rfl
@[simp] theorem setDmaBusy_bus (b : Bool) : (s.setDmaBusy b).bus = s.bus := rfl
@[simp] theorem setDmaBusy_mem (b : Bool) : (s.setDmaBusy b).mem = s.mem := rfl
@[simp] theorem setDmaBusy_faults (b : Bool) : (s.setDmaBusy b).faults = s.faults := rfl
@[simp] theorem setDmaBusy_history (b : Bool) : (s.setDmaBusy b).history = s.history := rfl
@[simp] theorem setDmaBusy_sink (b : Bool) : (s.setDmaBusy b).sink = s.sink := rfl
@[simp] theorem setDmaBusy_epDataSnap (b : Bool) : (s.setDmaBusy b).epDataSnap = s.epDataSnap := rfl
@[simp] theorem setDmaBusy_hang (b : Bool) : (s.setDmaBusy b).hang = s.hang := rfl
@[simp] theorem setDmaBusy_ret (b : Bool) : (s.setDmaBusy b).ret = s.ret := rfl
@[simp] theorem setDmaBusy_freeIdx (b : Bool) : (s.setDmaBusy b).freeIdx = s.freeIdx := rfl
@[simp] theorem setDmaBusy_sched (b : Bool) : (s.setDmaBusy b).sched = s.sched := rfl

@[simp] theorem setFg_ctx (p : FgPos) : (s.setFg p).ctx = { s.ctx with fg := p } := rfl
@[simp] theorem setFg_reg (p : FgPos) : (s.setFg p).reg = s.reg := rfl
@[simp] theorem setFg_dma (p : FgPos) : (s.setFg p).dma = s.dma := rfl
@[simp] theorem setFg_bus (p : FgPos) : (s.setFg p).bus = s.bus := rfl
@[simp] theorem setFg_mem (p : FgPos) : (s.setFg p).mem = s.mem := rfl
@[simp] theorem setFg_faults (p : FgPos) : (s.setFg p).faults = s.faults := rfl
@[simp] theorem setFg_history (p : FgPos) : (s.setFg p).history = s.history := rfl
@[simp] theorem setFg_sink (p : FgPos) : (s.setFg p).sink = s.sink := rfl
@[simp] theorem setFg_epDataSnap (p : FgPos) : (s.setFg p).epDataSnap = s.epDataSnap := rfl
@[simp] theorem setFg_hang (p : FgPos) : (s.setFg p).hang = s.hang := rfl
@[simp] theorem setFg_ret (p : FgPos) : (s.setFg p).ret = s.ret := rfl
@[simp] theorem setFg_freeIdx (p : FgPos) : (s.setFg p).freeIdx = s.freeIdx := rfl
@[simp] theorem setFg_sched (p : FgPos) : (s.setFg p).sched = s.sched := rfl

@[simp] theorem setHandlerInstalled_ctx (b : Bool) : (s.setHandlerInstalled b).ctx = { s.ctx with handlerInstalled := b } := rfl
@[simp] theorem setHandlerInstalled_reg (b : Bool) : (s.setHandlerInstalled b).reg = s.reg := rfl
@[simp] theorem setHandlerInstalled_dma (b : Bool) : (s.setHandlerInstalled b).dma = s.dma := rfl
@[simp] theorem setHandlerInstalled_bus (b : Bool) : (s.setHandlerInstalled b).bus = s.bus := rfl
@[simp] theorem setHandlerInstalled_mem (b : Bool) : (s.setHandlerInstalled b).mem = s.mem := rfl
@[simp] theorem setHandlerInstalled_faults (b : Bool) : (s.setHandlerInstalled b).faults = s.faults := rfl
@[simp] theorem setHandlerInstalled_history (b : Bool) : (s.setHandlerInstalled b).history = s.history := rfl
@[simp] theorem setHandlerInstalled_sink (b : Bool) : (s.setHandlerInstalled b).sink = s.sink := rfl
@[simp] theorem setHandlerInstalled_epDataSnap (b : Bool) : (s.setHandlerInstalled b).epDataSnap = s.epDataSnap := rfl
@[simp] theorem setHandlerInstalled_hang (b : Bool) : (s.setHandlerInstalled b).hang = s.hang := rfl
@[simp] theorem setHandlerInstalled_ret (b : Bool) : (s.setHandlerInstalled b).ret = s.ret := rfl
@[simp] theorem setHandlerInstalled_freeIdx (b : Bool) : (s.setHandlerInstalled b).freeIdx = s.freeIdx := rfl
@[simp] theorem setHandlerInstalled_sched (b : Bool) : (s.setHandlerInstalled b).sched = s.sched := rfl

@[simp] theorem setEvent_ctx (f : EventFlag) (v : Bool) : (s.setEvent f v).ctx = s.ctx := rfl
@[simp] theorem setEvent_reg (f : EventFlag) (v : Bool) : (s.setEvent f v).reg = { s.reg with events := s.reg.events.set f v } := rfl
@[simp] theorem setEvent_dma (f : EventFlag) (v : Bool) : (s.setEvent f v).dma = s.dma := rfl
@[simp] theorem setEvent_bus (f : EventFlag) (v : Bool) : (s.setEvent f v).bus = s.bus := rfl
@[simp] theorem setEvent_mem (f : EventFlag) (v : Bool) : (s.setEvent f v).mem = s.mem := rfl
@[simp] theorem setEvent_faults (f : EventFlag) (v : Bool) : (s.setEvent f v).faults = s.faults := rfl
@[simp] theorem setEvent_history (f : EventFlag) (v : Bool) : (s.setEvent f v).history = s.history := rfl
@[simp] theorem setEvent_sink (f : EventFlag) (v : Bool) : (s.setEvent f v).sink = s.sink := rfl
@[simp] theorem setEvent_epDataSnap (f : EventFlag) (v : Bool) : (s.setEvent f v).epDataSnap = s.epDataSnap := rfl
@[simp] theorem setEvent_hang (f : EventFlag) (v : Bool) : (s.setEvent f v).hang = s.hang := rfl
@[simp] theorem setEvent_ret (f : EventFlag) (v : Bool) : (s.setEvent f v).ret = s.ret := rfl
@[simp] theorem setEvent_freeIdx (f : EventFlag) (v : Bool) : (s.setEvent f v).freeIdx = s.freeIdx := rfl
@[simp] theorem setEvent_sched (f : EventFlag) (v : Bool) : (s.setEvent f v).sched = s.sched := rfl

@[simp] theorem emit_ctx (e : HistoryEvent) : (s.emit e).ctx = s.ctx := rfl
@[simp] theorem emit_reg (e : HistoryEvent) : (s.emit e).reg = s.reg := rfl
@[simp] theorem emit_dma (e : HistoryEvent) : (s.emit e).dma = s.dma := rfl
@[simp] theorem emit_bus (e : HistoryEvent) : (s.emit e).bus = s.bus := rfl
@[simp] theorem emit_mem (e : HistoryEvent) : (s.emit e).mem = s.mem := rfl
@[simp] theorem emit_faults (e : HistoryEvent) : (s.emit e).faults = s.faults := rfl
@[simp] theorem emit_history (e : HistoryEvent) : (s.emit e).history = s.history ++ [e] := rfl
@[simp] theorem emit_sink (e : HistoryEvent) : (s.emit e).sink = s.sink := rfl
@[simp] theorem emit_epDataSnap (e : HistoryEvent) : (s.emit e).epDataSnap = s.epDataSnap := rfl
@[simp] theorem emit_hang (e : HistoryEvent) : (s.emit e).hang = s.hang := rfl
@[simp] theorem emit_ret (e : HistoryEvent) : (s.emit e).ret = s.ret := rfl
@[simp] theorem emit_freeIdx (e : HistoryEvent) : (s.emit e).freeIdx = s.freeIdx := rfl
@[simp] theorem emit_sched (e : HistoryEvent) : (s.emit e).sched = s.sched := rfl

@[simp] theorem handOver_ctx (b : Byte) : (s.handOver b).ctx = s.ctx := rfl
@[simp] theorem handOver_reg (b : Byte) : (s.handOver b).reg = s.reg := rfl
@[simp] theorem handOver_dma (b : Byte) : (s.handOver b).dma = s.dma := rfl
@[simp] theorem handOver_bus (b : Byte) : (s.handOver b).bus = s.bus := rfl
@[simp] theorem handOver_mem (b : Byte) : (s.handOver b).mem = s.mem := rfl
@[simp] theorem handOver_faults (b : Byte) : (s.handOver b).faults = s.faults := rfl
@[simp] theorem handOver_history (b : Byte) : (s.handOver b).history = s.history := rfl
@[simp] theorem handOver_sink (b : Byte) : (s.handOver b).sink = s.sink ++ [⟨b, Config.ringSink s.freeIdx b⟩] := rfl
@[simp] theorem handOver_epDataSnap (b : Byte) : (s.handOver b).epDataSnap = s.epDataSnap := rfl
@[simp] theorem handOver_hang (b : Byte) : (s.handOver b).hang = s.hang := rfl
@[simp] theorem handOver_ret (b : Byte) : (s.handOver b).ret = s.ret := rfl
@[simp] theorem handOver_freeIdx (b : Byte) : (s.handOver b).freeIdx = s.freeIdx := rfl
@[simp] theorem handOver_sched (b : Byte) : (s.handOver b).sched = s.sched := rfl

@[simp] theorem raise_ctx (r : FaultRecord) : (s.raise r).ctx = s.ctx := rfl
@[simp] theorem raise_reg (r : FaultRecord) : (s.raise r).reg = s.reg := rfl
@[simp] theorem raise_dma (r : FaultRecord) : (s.raise r).dma = s.dma := rfl
@[simp] theorem raise_bus (r : FaultRecord) : (s.raise r).bus = s.bus := rfl
@[simp] theorem raise_mem (r : FaultRecord) : (s.raise r).mem = s.mem := rfl
@[simp] theorem raise_faults (r : FaultRecord) : (s.raise r).faults = if r ∈ s.faults then s.faults else s.faults ++ [r] := rfl
@[simp] theorem raise_history (r : FaultRecord) : (s.raise r).history = s.history := rfl
@[simp] theorem raise_sink (r : FaultRecord) : (s.raise r).sink = s.sink := rfl
@[simp] theorem raise_epDataSnap (r : FaultRecord) : (s.raise r).epDataSnap = s.epDataSnap := rfl
@[simp] theorem raise_hang (r : FaultRecord) : (s.raise r).hang = s.hang := rfl
@[simp] theorem raise_ret (r : FaultRecord) : (s.raise r).ret = s.ret := rfl
@[simp] theorem raise_freeIdx (r : FaultRecord) : (s.raise r).freeIdx = s.freeIdx := rfl
@[simp] theorem raise_sched (r : FaultRecord) : (s.raise r).sched = s.sched := rfl

@[simp] theorem nextFree_ctx : s.nextFree.ctx = s.ctx := rfl
@[simp] theorem nextFree_reg : s.nextFree.reg = s.reg := rfl
@[simp] theorem nextFree_dma : s.nextFree.dma = s.dma := rfl
@[simp] theorem nextFree_bus : s.nextFree.bus = s.bus := rfl
@[simp] theorem nextFree_mem : s.nextFree.mem = s.mem := rfl
@[simp] theorem nextFree_faults : s.nextFree.faults = s.faults := rfl
@[simp] theorem nextFree_history : s.nextFree.history = s.history := rfl
@[simp] theorem nextFree_sink : s.nextFree.sink = s.sink := rfl
@[simp] theorem nextFree_epDataSnap : s.nextFree.epDataSnap = s.epDataSnap := rfl
@[simp] theorem nextFree_hang : s.nextFree.hang = s.hang := rfl
@[simp] theorem nextFree_ret : s.nextFree.ret = s.ret := rfl
@[simp] theorem nextFree_freeIdx : s.nextFree.freeIdx = s.freeIdx + 1 := rfl
@[simp] theorem nextFree_sched : s.nextFree.sched = s.sched := rfl

/-! Several faults raised change the faults only. -/

@[simp] theorem raiseAll_ctx (rs : List FaultRecord) : (s.raiseAll rs).ctx = s.ctx := by
  induction rs generalizing s with
  | nil => rfl
  | cons r rs ih => exact ih (s.raise r)

@[simp] theorem raiseAll_reg (rs : List FaultRecord) : (s.raiseAll rs).reg = s.reg := by
  induction rs generalizing s with
  | nil => rfl
  | cons r rs ih => exact ih (s.raise r)

@[simp] theorem raiseAll_dma (rs : List FaultRecord) : (s.raiseAll rs).dma = s.dma := by
  induction rs generalizing s with
  | nil => rfl
  | cons r rs ih => exact ih (s.raise r)

@[simp] theorem raiseAll_bus (rs : List FaultRecord) : (s.raiseAll rs).bus = s.bus := by
  induction rs generalizing s with
  | nil => rfl
  | cons r rs ih => exact ih (s.raise r)

@[simp] theorem raiseAll_mem (rs : List FaultRecord) : (s.raiseAll rs).mem = s.mem := by
  induction rs generalizing s with
  | nil => rfl
  | cons r rs ih => exact ih (s.raise r)

@[simp] theorem raiseAll_history (rs : List FaultRecord) : (s.raiseAll rs).history = s.history := by
  induction rs generalizing s with
  | nil => rfl
  | cons r rs ih => exact ih (s.raise r)

@[simp] theorem raiseAll_sink (rs : List FaultRecord) : (s.raiseAll rs).sink = s.sink := by
  induction rs generalizing s with
  | nil => rfl
  | cons r rs ih => exact ih (s.raise r)

@[simp] theorem raiseAll_epDataSnap (rs : List FaultRecord) : (s.raiseAll rs).epDataSnap = s.epDataSnap := by
  induction rs generalizing s with
  | nil => rfl
  | cons r rs ih => exact ih (s.raise r)

@[simp] theorem raiseAll_hang (rs : List FaultRecord) : (s.raiseAll rs).hang = s.hang := by
  induction rs generalizing s with
  | nil => rfl
  | cons r rs ih => exact ih (s.raise r)

@[simp] theorem raiseAll_ret (rs : List FaultRecord) : (s.raiseAll rs).ret = s.ret := by
  induction rs generalizing s with
  | nil => rfl
  | cons r rs ih => exact ih (s.raise r)

@[simp] theorem raiseAll_freeIdx (rs : List FaultRecord) : (s.raiseAll rs).freeIdx = s.freeIdx := by
  induction rs generalizing s with
  | nil => rfl
  | cons r rs ih => exact ih (s.raise r)

@[simp] theorem raiseAll_sched (rs : List FaultRecord) : (s.raiseAll rs).sched = s.sched := by
  induction rs generalizing s with
  | nil => rfl
  | cons r rs ih => exact ih (s.raise r)

@[simp] theorem raiseAll_nil : s.raiseAll [] = s := rfl

/-- The recorded faults after one is raised. -/
theorem mem_raise_faults {r r' : FaultRecord} : r' ∈ (s.raise r).faults ↔ r' ∈ s.faults ∨ r' = r := by
  rw [raise_faults]
  split
  · exact ⟨.inl, fun h => h.elim id (fun e => e ▸ ‹_›)⟩
  · simp

/-- The recorded faults after several are raised. -/
theorem mem_raiseAll_faults {rs : List FaultRecord} {r' : FaultRecord} :
    r' ∈ (s.raiseAll rs).faults ↔ r' ∈ s.faults ∨ r' ∈ rs := by
  induction rs generalizing s with
  | nil => simp
  | cons r rs ih => rw [raiseAll, ih, mem_raise_faults, List.mem_cons, or_assoc]

/-- Raising several faults writes nothing but the fault set. -/
theorem raiseAll_eq (rs : List FaultRecord) : s.raiseAll rs = { s with faults := (s.raiseAll rs).faults } := by
  induction rs generalizing s with
  | nil => rfl
  | cons r rs ih => exact ih (s.raise r)

end Sys2Proof.Machine.State
end

