-- ==== Sys2Proof/Laws/Ops.lean ====
section
/-! SUPPORT. For each shared operation: what it leaves unchanged, field by field, and one lemma that says what it does. -/

namespace Sys2Proof.Machine

variable (s : State)

/-! ## Arrays over the endpoints -/

@[simp] theorem PerEp.get_set_same {α : Type} (p : PerEp α) (n : Ep) (a : α) : (p.set n a).get n = a := by cases n <;> rfl

@[simp] theorem PerEp.get_set_other {α : Type} (p : PerEp α) {n n' : Ep} (a : α) (h : n' ≠ n) :
    (p.set n a).get n' = p.get n' := by
  cases n <;> cases n' <;> first | rfl | exact absurd rfl h

@[simp] theorem PerEp.get_all {α : Type} (a : α) (n : Ep) : (PerEp.all a).get n = a := by cases n <;> rfl

/-! ## Memory accesses by the block -/

@[simp] theorem afterUninit_ctx (rs : List FaultRecord) : (afterUninit s rs).ctx = s.ctx := by cases rs <;> simp [afterUninit]
@[simp] theorem afterUninit_reg (rs : List FaultRecord) : (afterUninit s rs).reg = s.reg := by cases rs <;> simp [afterUninit]
@[simp] theorem afterUninit_dma (rs : List FaultRecord) : (afterUninit s rs).dma = s.dma := by cases rs <;> simp [afterUninit]
@[simp] theorem afterUninit_bus (rs : List FaultRecord) : (afterUninit s rs).bus = s.bus := by cases rs <;> simp [afterUninit]
@[simp] theorem afterUninit_mem (rs : List FaultRecord) : (afterUninit s rs).mem = s.mem := by cases rs <;> simp [afterUninit]
@[simp] theorem afterUninit_history (rs : List FaultRecord) : (afterUninit s rs).history = s.history := by cases rs <;> simp [afterUninit]
@[simp] theorem afterUninit_sink (rs : List FaultRecord) : (afterUninit s rs).sink = s.sink := by cases rs <;> simp [afterUninit]
@[simp] theorem afterUninit_epDataSnap (rs : List FaultRecord) : (afterUninit s rs).epDataSnap = s.epDataSnap := by cases rs <;> simp [afterUninit]
@[simp] theorem afterUninit_hang (rs : List FaultRecord) : (afterUninit s rs).hang = s.hang := by cases rs <;> simp [afterUninit]
@[simp] theorem afterUninit_ret (rs : List FaultRecord) : (afterUninit s rs).ret = s.ret := by cases rs <;> simp [afterUninit]
@[simp] theorem afterUninit_sched (rs : List FaultRecord) : (afterUninit s rs).sched = s.sched := by cases rs <;> simp [afterUninit]

@[simp] theorem afterUninit_nil : afterUninit s [] = s := rfl

@[simp] theorem memRead_ctx (buf : BufId) (off n : Nat) : ((memRead s buf off n).2).ctx = s.ctx := by simp [memRead]
@[simp] theorem memRead_reg (buf : BufId) (off n : Nat) : ((memRead s buf off n).2).reg = s.reg := by simp [memRead]
@[simp] theorem memRead_dma (buf : BufId) (off n : Nat) : ((memRead s buf off n).2).dma = s.dma := by simp [memRead]
@[simp] theorem memRead_bus (buf : BufId) (off n : Nat) : ((memRead s buf off n).2).bus = s.bus := by simp [memRead]
@[simp] theorem memRead_mem (buf : BufId) (off n : Nat) : ((memRead s buf off n).2).mem = s.mem := by simp [memRead]
@[simp] theorem memRead_history (buf : BufId) (off n : Nat) : ((memRead s buf off n).2).history = s.history := by simp [memRead]
@[simp] theorem memRead_sink (buf : BufId) (off n : Nat) : ((memRead s buf off n).2).sink = s.sink := by simp [memRead]
@[simp] theorem memRead_epDataSnap (buf : BufId) (off n : Nat) : ((memRead s buf off n).2).epDataSnap = s.epDataSnap := by simp [memRead]
@[simp] theorem memRead_hang (buf : BufId) (off n : Nat) : ((memRead s buf off n).2).hang = s.hang := by simp [memRead]
@[simp] theorem memRead_ret (buf : BufId) (off n : Nat) : ((memRead s buf off n).2).ret = s.ret := by simp [memRead]
@[simp] theorem memRead_sched (buf : BufId) (off n : Nat) : ((memRead s buf off n).2).sched = s.sched := by simp [memRead]

@[simp] theorem memRead_fst (buf : BufId) (off n : Nat) : (memRead s buf off n).1 = peekAll s buf off n := rfl

/-- A read of bytes that were all written, with no transfer in flight, changes nothing. -/
theorem memRead_clean {buf : BufId} {off n : Nat} (hd : s.dma = none)
    (h : ∀ j, j < n → (s.mem.load buf (off + j)).isSome) : (memRead s buf off n).2 = s := by
  simp [memRead, hd, uninitFaults_nil h]

/-- The faults after the unwritten bytes of a read are recorded. -/
theorem mem_afterUninit_faults {rs : List FaultRecord} {r : FaultRecord} :
    r ∈ (afterUninit s rs).faults ↔ r ∈ s.faults ∨ r ∈ rs := by
  cases rs with
  | nil => simp
  | cons q rs =>
    rw [afterUninit, State.nextFree_faults, State.mem_raiseAll_faults, State.mem_raise_faults, List.mem_cons, or_assoc]

/-- What recording unwritten bytes writes: the faults and the counter of free values. -/
theorem afterUninit_eq (rs : List FaultRecord) :
    afterUninit s rs = { s with faults := (afterUninit s rs).faults, freeIdx := (afterUninit s rs).freeIdx } := by
  cases rs with
  | nil => rfl
  | cons q rs =>
    rw [afterUninit, State.raiseAll_eq]
    rfl

/-- The counter of free values never goes back. -/
theorem afterUninit_freeIdx_le (rs : List FaultRecord) : s.freeIdx ≤ (afterUninit s rs).freeIdx := by
  cases rs <;> simp [afterUninit]

/-- All that a block read writes: the faults and the counter of free values. -/
theorem memRead_eq (buf : BufId) (off n : Nat) :
    (memRead s buf off n).2
      = { s with faults := (memRead s buf off n).2.faults, freeIdx := (memRead s buf off n).2.freeIdx } := by
  simp only [memRead]
  rw [afterUninit_eq, State.raiseAll_eq]

/-- The faults of a block read: a BufferRace for each raced byte, an UninitRead for each unwritten one (R72, R265). -/
theorem mem_memRead_faults {buf : BufId} {off n : Nat} {r : FaultRecord} :
    r ∈ (memRead s buf off n).2.faults ↔
      r ∈ s.faults ∨ r ∈ raceFaults s.dma false buf off n ∨ r ∈ uninitFaults s.mem buf off n := by
  simp only [memRead]
  rw [mem_afterUninit_faults, State.mem_raiseAll_faults, or_assoc]

/-- The counter of free values never goes back in a read. -/
theorem memRead_freeIdx_le (buf : BufId) (off n : Nat) : s.freeIdx ≤ (memRead s buf off n).2.freeIdx := by
  have h := afterUninit_freeIdx_le (s.raiseAll (raceFaults s.dma false buf off n)) (uninitFaults s.mem buf off n)
  rwa [State.raiseAll_freeIdx] at h

/-- A read that races nothing and meets no unwritten byte changes nothing. -/
theorem memRead_quiet {buf : BufId} {off n : Nat} (hr : raceFaults s.dma false buf off n = [])
    (hu : uninitFaults s.mem buf off n = []) : (memRead s buf off n).2 = s := by
  simp [memRead, hr, hu]

/-- All that a block write writes: the bytes and the faults. -/
theorem memWrite_eq (buf : BufId) (off : Nat) (data : List Byte) :
    memWrite s buf off data
      = { s with mem := s.mem.storeAll buf off data, faults := (memWrite s buf off data).faults } := by
  simp only [memWrite]
  rw [State.raiseAll_eq]
  rfl

/-- The faults of a block write: a BufferRace for each raced byte (R72). -/
theorem mem_memWrite_faults {buf : BufId} {off : Nat} {data : List Byte} {r : FaultRecord} :
    r ∈ (memWrite s buf off data).faults ↔ r ∈ s.faults ∨ r ∈ raceFaults s.dma true buf off data.length := by
  simp only [memWrite, State.setMem_faults]
  rw [State.mem_raiseAll_faults]

@[simp] theorem memWrite_ctx (buf : BufId) (off : Nat) (data : List Byte) : (memWrite s buf off data).ctx = s.ctx := by simp [memWrite]
@[simp] theorem memWrite_reg (buf : BufId) (off : Nat) (data : List Byte) : (memWrite s buf off data).reg = s.reg := by simp [memWrite]
@[simp] theorem memWrite_dma (buf : BufId) (off : Nat) (data : List Byte) : (memWrite s buf off data).dma = s.dma := by simp [memWrite]
@[simp] theorem memWrite_bus (buf : BufId) (off : Nat) (data : List Byte) : (memWrite s buf off data).bus = s.bus := by simp [memWrite]
@[simp] theorem memWrite_history (buf : BufId) (off : Nat) (data : List Byte) : (memWrite s buf off data).history = s.history := by simp [memWrite]
@[simp] theorem memWrite_sink (buf : BufId) (off : Nat) (data : List Byte) : (memWrite s buf off data).sink = s.sink := by simp [memWrite]
@[simp] theorem memWrite_epDataSnap (buf : BufId) (off : Nat) (data : List Byte) : (memWrite s buf off data).epDataSnap = s.epDataSnap := by simp [memWrite]
@[simp] theorem memWrite_hang (buf : BufId) (off : Nat) (data : List Byte) : (memWrite s buf off data).hang = s.hang := by simp [memWrite]
@[simp] theorem memWrite_ret (buf : BufId) (off : Nat) (data : List Byte) : (memWrite s buf off data).ret = s.ret := by simp [memWrite]
@[simp] theorem memWrite_freeIdx (buf : BufId) (off : Nat) (data : List Byte) : (memWrite s buf off data).freeIdx = s.freeIdx := by simp [memWrite]
@[simp] theorem memWrite_sched (buf : BufId) (off : Nat) (data : List Byte) : (memWrite s buf off data).sched = s.sched := by simp [memWrite]

@[simp] theorem memWrite_mem (buf : BufId) (off : Nat) (data : List Byte) :
    (memWrite s buf off data).mem = s.mem.storeAll buf off data := rfl

/-- Without a transfer in flight a write raises nothing. -/
theorem memWrite_free {buf : BufId} {off : Nat} {data : List Byte} (hd : s.dma = none) :
    memWrite s buf off data = s.setMem (s.mem.storeAll buf off data) := by
  simp [memWrite, hd]

/-- A write by the block keeps the canonical form. -/
theorem memWrite_wf {buf : BufId} {off : Nat} {data : List Byte} (h : s.mem.wf = true) :
    (memWrite s buf off data).mem.wf = true := Memory.wf_storeAll h buf off data

/-! ## Tasks and DMA starts -/

@[simp] theorem triggerStatus_ctx  : (triggerStatus s).ctx = s.ctx := rfl
@[simp] theorem triggerStatus_reg  : (triggerStatus s).reg = s.reg := rfl
@[simp] theorem triggerStatus_dma  : (triggerStatus s).dma = s.dma := rfl
@[simp] theorem triggerStatus_bus  : (triggerStatus s).bus = s.bus := rfl
@[simp] theorem triggerStatus_mem  : (triggerStatus s).mem = s.mem := rfl
@[simp] theorem triggerStatus_faults  : (triggerStatus s).faults = s.faults := rfl
@[simp] theorem triggerStatus_epDataSnap  : (triggerStatus s).epDataSnap = s.epDataSnap := rfl
@[simp] theorem triggerStatus_hang  : (triggerStatus s).hang = s.hang := rfl
@[simp] theorem triggerStatus_ret  : (triggerStatus s).ret = s.ret := rfl
@[simp] theorem triggerStatus_freeIdx  : (triggerStatus s).freeIdx = s.freeIdx := rfl
@[simp] theorem triggerStatus_sched  : (triggerStatus s).sched = s.sched := rfl

@[simp] theorem triggerStatus_history : (triggerStatus s).history = s.history ++ [.status] := rfl
@[simp] theorem triggerStatus_sink : (triggerStatus s).sink = s.sink := rfl

@[simp] theorem triggerStall_ctx  : (triggerStall s).ctx = s.ctx := rfl
@[simp] theorem triggerStall_reg  : (triggerStall s).reg = s.reg := rfl
@[simp] theorem triggerStall_dma  : (triggerStall s).dma = s.dma := rfl
@[simp] theorem triggerStall_bus  : (triggerStall s).bus = s.bus := rfl
@[simp] theorem triggerStall_mem  : (triggerStall s).mem = s.mem := rfl
@[simp] theorem triggerStall_faults  : (triggerStall s).faults = s.faults := rfl
@[simp] theorem triggerStall_epDataSnap  : (triggerStall s).epDataSnap = s.epDataSnap := rfl
@[simp] theorem triggerStall_hang  : (triggerStall s).hang = s.hang := rfl
@[simp] theorem triggerStall_ret  : (triggerStall s).ret = s.ret := rfl
@[simp] theorem triggerStall_freeIdx  : (triggerStall s).freeIdx = s.freeIdx := rfl
@[simp] theorem triggerStall_sched  : (triggerStall s).sched = s.sched := rfl

@[simp] theorem triggerStall_history : (triggerStall s).history = s.history ++ [.stall] := rfl
@[simp] theorem triggerStall_sink : (triggerStall s).sink = s.sink := rfl

@[simp] theorem triggerRcvOut_ctx  : (triggerRcvOut s).ctx = s.ctx := rfl
@[simp] theorem triggerRcvOut_reg  : (triggerRcvOut s).reg = s.reg := rfl
@[simp] theorem triggerRcvOut_dma  : (triggerRcvOut s).dma = s.dma := rfl
@[simp] theorem triggerRcvOut_mem  : (triggerRcvOut s).mem = s.mem := rfl
@[simp] theorem triggerRcvOut_faults  : (triggerRcvOut s).faults = s.faults := rfl
@[simp] theorem triggerRcvOut_history  : (triggerRcvOut s).history = s.history := rfl
@[simp] theorem triggerRcvOut_sink  : (triggerRcvOut s).sink = s.sink := rfl
@[simp] theorem triggerRcvOut_epDataSnap  : (triggerRcvOut s).epDataSnap = s.epDataSnap := rfl
@[simp] theorem triggerRcvOut_hang  : (triggerRcvOut s).hang = s.hang := rfl
@[simp] theorem triggerRcvOut_ret  : (triggerRcvOut s).ret = s.ret := rfl
@[simp] theorem triggerRcvOut_freeIdx  : (triggerRcvOut s).freeIdx = s.freeIdx := rfl
@[simp] theorem triggerRcvOut_sched  : (triggerRcvOut s).sched = s.sched := rfl

@[simp] theorem rearmOut_ctx (n : Ep) : (rearmOut s n).ctx = s.ctx := rfl
@[simp] theorem rearmOut_reg (n : Ep) : (rearmOut s n).reg = s.reg := rfl
@[simp] theorem rearmOut_dma (n : Ep) : (rearmOut s n).dma = s.dma := rfl
@[simp] theorem rearmOut_mem (n : Ep) : (rearmOut s n).mem = s.mem := rfl
@[simp] theorem rearmOut_faults (n : Ep) : (rearmOut s n).faults = s.faults := rfl
@[simp] theorem rearmOut_history (n : Ep) : (rearmOut s n).history = s.history := rfl
@[simp] theorem rearmOut_sink (n : Ep) : (rearmOut s n).sink = s.sink := rfl
@[simp] theorem rearmOut_epDataSnap (n : Ep) : (rearmOut s n).epDataSnap = s.epDataSnap := rfl
@[simp] theorem rearmOut_hang (n : Ep) : (rearmOut s n).hang = s.hang := rfl
@[simp] theorem rearmOut_ret (n : Ep) : (rearmOut s n).ret = s.ret := rfl
@[simp] theorem rearmOut_freeIdx (n : Ep) : (rearmOut s n).freeIdx = s.freeIdx := rfl
@[simp] theorem rearmOut_sched (n : Ep) : (rearmOut s n).sched = s.sched := rfl

@[simp] theorem rearmOut_bus (n : Ep) :
    (rearmOut s n).bus = { s.bus with outArmed := s.bus.outArmed.set n true } := rfl

@[simp] theorem programIn_ctx (n : Ep) (ref : BufRef) (cnt : Half) : (programIn s n ref cnt).ctx = s.ctx := rfl
@[simp] theorem programIn_dma (n : Ep) (ref : BufRef) (cnt : Half) : (programIn s n ref cnt).dma = s.dma := rfl
@[simp] theorem programIn_bus (n : Ep) (ref : BufRef) (cnt : Half) : (programIn s n ref cnt).bus = s.bus := rfl
@[simp] theorem programIn_mem (n : Ep) (ref : BufRef) (cnt : Half) : (programIn s n ref cnt).mem = s.mem := rfl
@[simp] theorem programIn_faults (n : Ep) (ref : BufRef) (cnt : Half) : (programIn s n ref cnt).faults = s.faults := rfl
@[simp] theorem programIn_history (n : Ep) (ref : BufRef) (cnt : Half) : (programIn s n ref cnt).history = s.history := rfl
@[simp] theorem programIn_sink (n : Ep) (ref : BufRef) (cnt : Half) : (programIn s n ref cnt).sink = s.sink := rfl
@[simp] theorem programIn_epDataSnap (n : Ep) (ref : BufRef) (cnt : Half) : (programIn s n ref cnt).epDataSnap = s.epDataSnap := rfl
@[simp] theorem programIn_hang (n : Ep) (ref : BufRef) (cnt : Half) : (programIn s n ref cnt).hang = s.hang := rfl
@[simp] theorem programIn_ret (n : Ep) (ref : BufRef) (cnt : Half) : (programIn s n ref cnt).ret = s.ret := rfl
@[simp] theorem programIn_freeIdx (n : Ep) (ref : BufRef) (cnt : Half) : (programIn s n ref cnt).freeIdx = s.freeIdx := rfl
@[simp] theorem programIn_sched (n : Ep) (ref : BufRef) (cnt : Half) : (programIn s n ref cnt).sched = s.sched := rfl

@[simp] theorem programOut_ctx (n : Ep) (ref : BufRef) (cnt : Half) : (programOut s n ref cnt).ctx = s.ctx := rfl
@[simp] theorem programOut_dma (n : Ep) (ref : BufRef) (cnt : Half) : (programOut s n ref cnt).dma = s.dma := rfl
@[simp] theorem programOut_bus (n : Ep) (ref : BufRef) (cnt : Half) : (programOut s n ref cnt).bus = s.bus := rfl
@[simp] theorem programOut_mem (n : Ep) (ref : BufRef) (cnt : Half) : (programOut s n ref cnt).mem = s.mem := rfl
@[simp] theorem programOut_faults (n : Ep) (ref : BufRef) (cnt : Half) : (programOut s n ref cnt).faults = s.faults := rfl
@[simp] theorem programOut_history (n : Ep) (ref : BufRef) (cnt : Half) : (programOut s n ref cnt).history = s.history := rfl
@[simp] theorem programOut_sink (n : Ep) (ref : BufRef) (cnt : Half) : (programOut s n ref cnt).sink = s.sink := rfl
@[simp] theorem programOut_epDataSnap (n : Ep) (ref : BufRef) (cnt : Half) : (programOut s n ref cnt).epDataSnap = s.epDataSnap := rfl
@[simp] theorem programOut_hang (n : Ep) (ref : BufRef) (cnt : Half) : (programOut s n ref cnt).hang = s.hang := rfl
@[simp] theorem programOut_ret (n : Ep) (ref : BufRef) (cnt : Half) : (programOut s n ref cnt).ret = s.ret := rfl
@[simp] theorem programOut_freeIdx (n : Ep) (ref : BufRef) (cnt : Half) : (programOut s n ref cnt).freeIdx = s.freeIdx := rfl
@[simp] theorem programOut_sched (n : Ep) (ref : BufRef) (cnt : Half) : (programOut s n ref cnt).sched = s.sched := rfl

@[simp] theorem programIn_reg (n : Ep) (ref : BufRef) (cnt : Half) : (programIn s n ref cnt).reg
    = { s.reg with epInPtr := s.reg.epInPtr.set n ref, epInMaxCnt := s.reg.epInMaxCnt.set n cnt } := rfl

@[simp] theorem programOut_reg (n : Ep) (ref : BufRef) (cnt : Half) : (programOut s n ref cnt).reg
    = { s.reg with epOutPtr := s.reg.epOutPtr.set n ref, epOutMaxCnt := s.reg.epOutMaxCnt.set n cnt } := rfl

@[simp] theorem dmaStart_ctx (dir : Dir) (n : Ep) : (dmaStart s dir n).ctx = s.ctx := by
  simp only [dmaStart]; split <;> (try split) <;> simp
@[simp] theorem dmaStart_reg (dir : Dir) (n : Ep) : (dmaStart s dir n).reg = s.reg := by
  simp only [dmaStart]; split <;> (try split) <;> simp
@[simp] theorem dmaStart_bus (dir : Dir) (n : Ep) : (dmaStart s dir n).bus = s.bus := by
  simp only [dmaStart]; split <;> (try split) <;> simp
@[simp] theorem dmaStart_mem (dir : Dir) (n : Ep) : (dmaStart s dir n).mem = s.mem := by
  simp only [dmaStart]; split <;> (try split) <;> simp
@[simp] theorem dmaStart_history (dir : Dir) (n : Ep) : (dmaStart s dir n).history = s.history := by
  simp only [dmaStart]; split <;> (try split) <;> simp
@[simp] theorem dmaStart_sink (dir : Dir) (n : Ep) : (dmaStart s dir n).sink = s.sink := by
  simp only [dmaStart]; split <;> (try split) <;> simp
@[simp] theorem dmaStart_epDataSnap (dir : Dir) (n : Ep) : (dmaStart s dir n).epDataSnap = s.epDataSnap := by
  simp only [dmaStart]; split <;> (try split) <;> simp
@[simp] theorem dmaStart_hang (dir : Dir) (n : Ep) : (dmaStart s dir n).hang = s.hang := by
  simp only [dmaStart]; split <;> (try split) <;> simp
@[simp] theorem dmaStart_ret (dir : Dir) (n : Ep) : (dmaStart s dir n).ret = s.ret := by
  simp only [dmaStart]; split <;> (try split) <;> simp
@[simp] theorem dmaStart_freeIdx (dir : Dir) (n : Ep) : (dmaStart s dir n).freeIdx = s.freeIdx := by
  simp only [dmaStart]; split <;> (try split) <;> simp
@[simp] theorem dmaStart_sched (dir : Dir) (n : Ep) : (dmaStart s dir n).sched = s.sched := by
  simp only [dmaStart]; split <;> (try split) <;> simp

/-- A start while a transfer is in flight is refused (R192). -/
theorem dmaStart_busy {t : Transfer} (h : s.dma = some t) (dir : Dir) (n : Ep) :
    dmaStart s dir n = s.raise (.dmaContention t dir n) := by
  simp [dmaStart, h]

/-- A start whose region leaves its buffer is refused (R61, R192). -/
theorem dmaStart_outside {dir : Dir} {n : Ep} (h : s.dma = none)
    (hb : capacity (ptrOf s.reg dir n).buf < (ptrOf s.reg dir n).off.toNat + (maxCntOf s.reg dir n).toNat) :
    dmaStart s dir n
      = s.raise (.dmaBounds (ptrOf s.reg dir n).buf (ptrOf s.reg dir n).off.toNat (maxCntOf s.reg dir n).toNat) := by
  simp [dmaStart, h, hb]

/-- A start with nothing in flight and a region inside its buffer (R192). -/
theorem dmaStart_free {dir : Dir} {n : Ep} (h : s.dma = none)
    (hb : (ptrOf s.reg dir n).off.toNat + (maxCntOf s.reg dir n).toNat ≤ capacity (ptrOf s.reg dir n).buf) :
    dmaStart s dir n
      = s.setDma (some ⟨dir, n, (ptrOf s.reg dir n).buf, (ptrOf s.reg dir n).off, maxCntOf s.reg dir n⟩) := by
  simp [dmaStart, h, Nat.not_lt.mpr hb]

/-- All a start can do: record a fault, or start the transfer its registers describe, inside its buffer. -/
theorem dmaStart_cases (dir : Dir) (n : Ep) :
    (∃ r, dmaStart s dir n = s.raise r) ∨
      (s.dma = none ∧ ∃ t : Transfer, t.off.toNat + t.cnt.toNat ≤ capacity t.buf ∧ dmaStart s dir n = s.setDma (some t)) := by
  rcases hd : s.dma with _ | t
  · by_cases hb : (ptrOf s.reg dir n).off.toNat + (maxCntOf s.reg dir n).toNat ≤ capacity (ptrOf s.reg dir n).buf
    · exact .inr ⟨rfl, _, hb, dmaStart_free s hd hb⟩
    · exact .inl ⟨_, dmaStart_outside s hd (Nat.lt_of_not_le hb)⟩
  · exact .inl ⟨_, dmaStart_busy s hd dir n⟩

@[simp] theorem sendViaEpIn_ctx (n : Ep) (ref : BufRef) (cnt : Half) : (sendViaEpIn s n ref cnt).ctx = s.ctx := by simp [sendViaEpIn]
@[simp] theorem sendViaEpIn_bus (n : Ep) (ref : BufRef) (cnt : Half) : (sendViaEpIn s n ref cnt).bus = s.bus := by simp [sendViaEpIn]
@[simp] theorem sendViaEpIn_mem (n : Ep) (ref : BufRef) (cnt : Half) : (sendViaEpIn s n ref cnt).mem = s.mem := by simp [sendViaEpIn]
@[simp] theorem sendViaEpIn_history (n : Ep) (ref : BufRef) (cnt : Half) : (sendViaEpIn s n ref cnt).history = s.history := by simp [sendViaEpIn]
@[simp] theorem sendViaEpIn_sink (n : Ep) (ref : BufRef) (cnt : Half) : (sendViaEpIn s n ref cnt).sink = s.sink := by simp [sendViaEpIn]
@[simp] theorem sendViaEpIn_epDataSnap (n : Ep) (ref : BufRef) (cnt : Half) : (sendViaEpIn s n ref cnt).epDataSnap = s.epDataSnap := by simp [sendViaEpIn]
@[simp] theorem sendViaEpIn_hang (n : Ep) (ref : BufRef) (cnt : Half) : (sendViaEpIn s n ref cnt).hang = s.hang := by simp [sendViaEpIn]
@[simp] theorem sendViaEpIn_ret (n : Ep) (ref : BufRef) (cnt : Half) : (sendViaEpIn s n ref cnt).ret = s.ret := by simp [sendViaEpIn]
@[simp] theorem sendViaEpIn_freeIdx (n : Ep) (ref : BufRef) (cnt : Half) : (sendViaEpIn s n ref cnt).freeIdx = s.freeIdx := by simp [sendViaEpIn]
@[simp] theorem sendViaEpIn_sched (n : Ep) (ref : BufRef) (cnt : Half) : (sendViaEpIn s n ref cnt).sched = s.sched := by simp [sendViaEpIn]

@[simp] theorem sendViaEpIn_reg (n : Ep) (ref : BufRef) (cnt : Half) : (sendViaEpIn s n ref cnt).reg
    = { s.reg with epInPtr := s.reg.epInPtr.set n ref, epInMaxCnt := s.reg.epInMaxCnt.set n cnt } := by simp [sendViaEpIn]

/-- A send with nothing in flight and a region inside its buffer (R189, R192). -/
theorem sendViaEpIn_free {n : Ep} {ref : BufRef} {cnt : Half} (h : s.dma = none)
    (hb : ref.off.toNat + cnt.toNat ≤ capacity ref.buf) :
    sendViaEpIn s n ref cnt = (programIn s n ref cnt).setDma (some ⟨.dirIn, n, ref.buf, ref.off, cnt⟩) := by
  have := dmaStart_free (programIn s n ref cnt) (dir := .dirIn) (n := n) h
    (by simpa [ptrOf, maxCntOf] using hb)
  simpa [sendViaEpIn, ptrOf, maxCntOf] using this

/-- A control response of at most one packet, with nothing in flight (R190). -/
theorem sendControl_one {data : List Byte} (h : s.dma = none) (hl : data.length ≤ 64) :
    sendControl s data
      = (programIn ((s.setMem (s.mem.storeAll .ep0In 0 data)).setPending none) .ep0 ⟨.ep0In, 0#16⟩
          (BitVec.ofNat 16 data.length)).setDma (some ⟨.dirIn, .ep0, .ep0In, 0#16, BitVec.ofNat 16 data.length⟩) := by
  have h1 : ¬ Config.ctrlInBuf < data.length := by simp only [Config.ctrlInBuf]; omega
  have h2 : ¬ Config.maxPkt < data.length := by simp only [Config.maxPkt]; omega
  rw [sendControl, if_neg h1, if_neg h2, memWrite_free s h, sendViaEpIn_free _ (by simp [h])]
  simp only [BitVec.toNat_ofNat, capacity, Config.ctrlInBuf]
  omega

/-- The first packet of a longer control response, with nothing in flight (R190). -/
theorem sendControl_first {data : List Byte} (h : s.dma = none) (hl : 64 < data.length) (hc : data.length ≤ 256) :
    sendControl s data
      = (programIn ((s.setMem (s.mem.storeAll .ep0In 0 data)).setPending
            (some ⟨64#16, BitVec.ofNat 16 (data.length - 64)⟩)) .ep0 ⟨.ep0In, 0#16⟩ 64#16).setDma
          (some ⟨.dirIn, .ep0, .ep0In, 0#16, 64#16⟩) := by
  have h1 : ¬ Config.ctrlInBuf < data.length := by simp only [Config.ctrlInBuf]; omega
  have h2 : Config.maxPkt < data.length := hl
  rw [sendControl, if_neg h1, if_pos h2, memWrite_free s h, sendViaEpIn_free _ (by simp [h])]
  · rfl
  · simp [capacity, Config.ctrlInBuf, Config.maxPkt]

/-! ## The ring sink -/

@[simp] theorem ringPush_ctx (b : Byte) : (ringPush s b).ctx = s.ctx := rfl
@[simp] theorem ringPush_reg (b : Byte) : (ringPush s b).reg = s.reg := rfl
@[simp] theorem ringPush_dma (b : Byte) : (ringPush s b).dma = s.dma := rfl
@[simp] theorem ringPush_bus (b : Byte) : (ringPush s b).bus = s.bus := rfl
@[simp] theorem ringPush_mem (b : Byte) : (ringPush s b).mem = s.mem := rfl
@[simp] theorem ringPush_faults (b : Byte) : (ringPush s b).faults = s.faults := rfl
@[simp] theorem ringPush_epDataSnap (b : Byte) : (ringPush s b).epDataSnap = s.epDataSnap := rfl
@[simp] theorem ringPush_hang (b : Byte) : (ringPush s b).hang = s.hang := rfl
@[simp] theorem ringPush_ret (b : Byte) : (ringPush s b).ret = s.ret := rfl
@[simp] theorem ringPush_sched (b : Byte) : (ringPush s b).sched = s.sched := rfl
@[simp] theorem ringPush_history (b : Byte) : (ringPush s b).history = s.history ++ [.push b] := rfl
@[simp] theorem ringPush_sink (b : Byte) : (ringPush s b).sink = s.sink ++ [⟨b, Config.ringSink s.freeIdx b⟩] := rfl
@[simp] theorem ringPush_freeIdx (b : Byte) : (ringPush s b).freeIdx = s.freeIdx + 1 := rfl

@[simp] theorem pushAll_ctx (bs : List Byte) : (pushAll s bs).ctx = s.ctx := by
  induction bs generalizing s with
  | nil => rfl
  | cons b bs ih => exact ih (ringPush s b)

@[simp] theorem pushAll_reg (bs : List Byte) : (pushAll s bs).reg = s.reg := by
  induction bs generalizing s with
  | nil => rfl
  | cons b bs ih => exact ih (ringPush s b)

@[simp] theorem pushAll_dma (bs : List Byte) : (pushAll s bs).dma = s.dma := by
  induction bs generalizing s with
  | nil => rfl
  | cons b bs ih => exact ih (ringPush s b)

@[simp] theorem pushAll_bus (bs : List Byte) : (pushAll s bs).bus = s.bus := by
  induction bs generalizing s with
  | nil => rfl
  | cons b bs ih => exact ih (ringPush s b)

@[simp] theorem pushAll_mem (bs : List Byte) : (pushAll s bs).mem = s.mem := by
  induction bs generalizing s with
  | nil => rfl
  | cons b bs ih => exact ih (ringPush s b)

@[simp] theorem pushAll_faults (bs : List Byte) : (pushAll s bs).faults = s.faults := by
  induction bs generalizing s with
  | nil => rfl
  | cons b bs ih => exact ih (ringPush s b)

@[simp] theorem pushAll_epDataSnap (bs : List Byte) : (pushAll s bs).epDataSnap = s.epDataSnap := by
  induction bs generalizing s with
  | nil => rfl
  | cons b bs ih => exact ih (ringPush s b)

@[simp] theorem pushAll_hang (bs : List Byte) : (pushAll s bs).hang = s.hang := by
  induction bs generalizing s with
  | nil => rfl
  | cons b bs ih => exact ih (ringPush s b)

@[simp] theorem pushAll_ret (bs : List Byte) : (pushAll s bs).ret = s.ret := by
  induction bs generalizing s with
  | nil => rfl
  | cons b bs ih => exact ih (ringPush s b)

@[simp] theorem pushAll_sched (bs : List Byte) : (pushAll s bs).sched = s.sched := by
  induction bs generalizing s with
  | nil => rfl
  | cons b bs ih => exact ih (ringPush s b)

/-- Bytes are pushed in order (R195). -/
@[simp] theorem pushAll_history (bs : List Byte) :
    (pushAll s bs).history = s.history ++ bs.map HistoryEvent.push := by
  induction bs generalizing s with
  | nil => simp [pushAll]
  | cons b bs ih => simp [pushAll, ih]

/-- Each push takes a fresh answer of the sink. -/
@[simp] theorem pushAll_freeIdx (bs : List Byte) : (pushAll s bs).freeIdx = s.freeIdx + bs.length := by
  induction bs generalizing s with
  | nil => rfl
  | cons b bs ih => simp [pushAll, ih]; omega

/-- Bytes are handed over in order, and the sink answers each in turn. -/
@[simp] theorem pushAll_sink (bs : List Byte) :
    (pushAll s bs).sink = s.sink ++ bs.mapIdx fun j b => ⟨b, Config.ringSink (s.freeIdx + j) b⟩ := by
  induction bs generalizing s with
  | nil => simp [pushAll]
  | cons b bs ih => simp [pushAll, ih, List.mapIdx_cons, Nat.add_assoc, Nat.add_comm 1]

/-- All that pushes do. -/
theorem pushAll_eq (bs : List Byte) :
    pushAll s bs = { s with
      history := s.history ++ bs.map HistoryEvent.push
      sink := s.sink ++ bs.mapIdx fun j b => ⟨b, Config.ringSink (s.freeIdx + j) b⟩
      freeIdx := s.freeIdx + bs.length } := by
  induction bs generalizing s with
  | nil => simp [pushAll]
  | cons b bs ih =>
    simp [pushAll, ih, ringPush, State.emit, State.handOver, State.nextFree, List.mapIdx_cons, Nat.add_assoc,
      Nat.add_comm 1]

/-! ## Flow -/

@[simp] theorem Flow.state_go {α : Type} (a : α) : (Flow.go s a).state = s := rfl
@[simp] theorem Flow.state_halt {α : Type} : (Flow.halt s : Flow α).state = s := rfl
@[simp] theorem Flow.andThen_go {α β : Type} (a : α) (k : State → α → Flow β) : (Flow.go s a).andThen k = k s a := rfl
@[simp] theorem Flow.andThen_halt {α β : Type} (k : State → α → Flow β) :
    (Flow.halt s : Flow α).andThen k = .halt s := rfl
@[simp] theorem Flow.returning_go (b : Bool) : (Flow.go s b).returning = s.setRet (.bool b) := rfl
@[simp] theorem Flow.returning_halt : (Flow.halt s : Flow Bool).returning = s := rfl

/-! ## The guard, the hook, reset -/

@[simp] theorem exitCriticalSection_reg  : (exitCriticalSection s).reg = s.reg := rfl
@[simp] theorem exitCriticalSection_dma  : (exitCriticalSection s).dma = s.dma := rfl
@[simp] theorem exitCriticalSection_bus  : (exitCriticalSection s).bus = s.bus := rfl
@[simp] theorem exitCriticalSection_mem  : (exitCriticalSection s).mem = s.mem := rfl
@[simp] theorem exitCriticalSection_faults  : (exitCriticalSection s).faults = s.faults := rfl
@[simp] theorem exitCriticalSection_history  : (exitCriticalSection s).history = s.history := rfl
@[simp] theorem exitCriticalSection_sink  : (exitCriticalSection s).sink = s.sink := rfl
@[simp] theorem exitCriticalSection_epDataSnap  : (exitCriticalSection s).epDataSnap = s.epDataSnap := rfl
@[simp] theorem exitCriticalSection_hang  : (exitCriticalSection s).hang = s.hang := rfl
@[simp] theorem exitCriticalSection_ret  : (exitCriticalSection s).ret = s.ret := rfl
@[simp] theorem exitCriticalSection_freeIdx  : (exitCriticalSection s).freeIdx = s.freeIdx := rfl
@[simp] theorem exitCriticalSection_sched  : (exitCriticalSection s).sched = s.sched := rfl

@[simp] theorem exitCriticalSection_ctx : (exitCriticalSection s).ctx = { s.ctx with dmaBusy := false } := rfl

/-- The acquisition in interrupt context: the guard is taken, or `IRQ` hangs and nothing else changes (R187). -/
theorem enterCriticalSectionIrq_cases :
    (s.ctx.dmaBusy = true ∧ enterCriticalSectionIrq s = .halt (s.setHang (some .irqSpinDeadlock))) ∨
      (s.ctx.dmaBusy = false ∧ enterCriticalSectionIrq s = .go (s.setDmaBusy true) ()) := by
  cases h : s.ctx.dmaBusy <;> simp [enterCriticalSectionIrq, h]

/-- A hook call: it is recorded and the call returns, or the system is reset (R176). -/
theorem checkShouldReset_cases :
    checkShouldReset s = .go (s.emit (.hook s.ctx.line)).nextFree () ∨
      checkShouldReset s = .halt (systemReset s.nextFree) := by
  simp only [checkShouldReset]
  split
  · exact .inr rfl
  · exact .inl rfl

@[simp] theorem systemReset_sched : (systemReset s).sched = s.sched := rfl
@[simp] theorem systemReset_freeIdx : (systemReset s).freeIdx = s.freeIdx := rfl

end Sys2Proof.Machine
end

