-- ==== Sys2Proof/Laws/PerInstr.lean ====
section
/-! SUPPORT. Per-instruction laws. RoundTrip: the record of a well-formed operation decodes to the operation. -/

namespace Sys2Proof.Laws

/-! ## The fields the rows test -/

theorem ofLe16_le16 (v : Half) : ofLe16 (v.extractLsb' 0 8) (v.extractLsb' 8 8) = v := by
  apply BitVec.eq_of_getLsbD_eq
  intro i hi
  simp only [ofLe16, BitVec.getLsbD_append, BitVec.getLsbD_extractLsb']
  split
  · simp_all
  · have h : i - 8 < 8 := by omega
    simp [h, show 8 + (i - 8) = i by omega]

/-- The packet of a record's eight bytes (R80). -/
theorem takePacket_encodePacket (sp : SetupPacket) (rest : List Byte) :
    takePacket (encodePacket sp ++ rest) = .ok (sp, rest) := by
  simp [encodePacket, le16, takePacket, ofLe16_le16]

/-- A packet's record decodes to the row its fields select. -/
theorem decode_encodePacket (sp : SetupPacket) : decode .setup (encodePacket sp) = .ok (selectRow sp) := by
  have h := takePacket_encodePacket sp []
  rw [List.append_nil] at h
  simp [decode, with1, h]

/-- Bits 6:5 of the key are the type bits. -/
theorem typeBits_of_key {sp : SetupPacket} {mask pattern : Half} {t : BitVec 2}
    (h : sp.matchesRow mask pattern = true) (hm : mask.extractLsb' 5 2 = 3#2) (hp : pattern.extractLsb' 5 2 = t) :
    sp.typeBits = t := by
  simp only [SetupPacket.matchesRow, beq_iff_eq] at h
  rw [← hp, ← h, SetupPacket.typeBits, BitVec.extractLsb'_and, hm]
  apply BitVec.eq_of_getLsbD_eq
  intro i hi
  have h3 : (3#2).getLsbD i = true := by
    have : i = 0 ∨ i = 1 := by omega
    rcases this with rfl | rfl <;> rfl
  rw [BitVec.getLsbD_and, h3, Bool.and_true]
  simp only [BitVec.getLsbD_extractLsb', SetupPacket.key, BitVec.getLsbD_append, hi]
  rw [if_pos (by omega)]

/-- Bits 15:8 of the key are the request code. -/
theorem request_of_key {sp : SetupPacket} {mask pattern : Half} {r : Byte}
    (h : sp.matchesRow mask pattern = true) (hm : mask.extractLsb' 8 8 = 0xFF#8) (hp : pattern.extractLsb' 8 8 = r) :
    sp.request = r := by
  simp only [SetupPacket.matchesRow, beq_iff_eq] at h
  rw [← hp, ← h, BitVec.extractLsb'_and, hm, SetupPacket.key]
  have hk : (sp.request ++ sp.requestType).extractLsb' 8 8 = sp.request := by
    apply BitVec.eq_of_getLsbD_eq
    intro i hi
    simp only [BitVec.getLsbD_extractLsb', BitVec.getLsbD_append, hi]
    rw [if_neg (by omega)]
    simp
  rw [hk]
  exact (BitVec.and_allOnes).symm

/-- A standard row's key fixes the type bits and the request code (R83, R84). -/
theorem standard_fields {sp : SetupPacket} {pattern : Half} (h : sp.isStandard pattern = true)
    (hp : pattern.extractLsb' 5 2 = 0#2) : sp.typeBits = 0#2 ∧ sp.request = pattern.extractLsb' 8 8 :=
  ⟨typeBits_of_key h rfl hp, request_of_key h rfl rfl⟩

/-- A class row's key fixes the type bits and the request code, and its index the interface (R83, R85). -/
theorem class_fields {sp : SetupPacket} {pattern : Half} (h : sp.isClass pattern = true)
    (hp : pattern.extractLsb' 5 2 = 1#2) :
    sp.typeBits = 1#2 ∧ sp.request = pattern.extractLsb' 8 8 ∧ sp.index = Config.ifComm := by
  simp only [SetupPacket.isClass, Bool.and_eq_true, beq_iff_eq] at h
  exact ⟨typeBits_of_key h.1 rfl hp, request_of_key h.1 rfl rfl, h.2⟩

/-- The type bits and the request code make up what a row's mask 0xFF60 tests. -/
theorem matchesRow_of_fields {sp : SetupPacket} {t : BitVec 2} {r : Byte} (ht : sp.typeBits = t) (hr : sp.request = r) :
    sp.matchesRow 0xFF60#16 (r ++ (0#1 ++ t ++ 0#5)) = true := by
  subst ht hr
  simp only [SetupPacket.matchesRow, beq_iff_eq, SetupPacket.key, SetupPacket.typeBits]
  apply BitVec.eq_of_getLsbD_eq
  intro i hi
  have hm : (0xFF60#16).getLsbD i = (decide (5 ≤ i) && decide (i ≤ 6) || decide (8 ≤ i)) := by
    revert i; decide
  simp only [BitVec.getLsbD_and, hm, BitVec.getLsbD_append, BitVec.getLsbD_extractLsb', BitVec.getLsbD_zero]
  by_cases h8 : i < 8
  · by_cases h5 : i < 5
    · simp [h8, h5, show ¬ 5 ≤ i by omega, show ¬ 8 ≤ i by omega]
    · by_cases h7 : i < 7
      · simp [h8, h5, show 5 ≤ i by omega, show i ≤ 6 by omega, show i - 5 < 2 by omega, show 5 + (i - 5) = i by omega]
      · simp [h8, h5, show ¬ i ≤ 6 by omega, show ¬ 8 ≤ i by omega, show ¬ i - 5 < 2 by omega]
  · simp [h8, show 8 ≤ i by omega]

/-! ## Data after its length -/

theorem ofLe16_length {d : List Byte} (h : d.length < 65536) :
    (ofLe16 ((BitVec.ofNat 16 d.length).extractLsb' 0 8) ((BitVec.ofNat 16 d.length).extractLsb' 8 8)).toNat
      = d.length := by
  rw [ofLe16_le16, BitVec.toNat_ofNat]
  exact Nat.mod_eq_of_lt h

theorem takeData_encodeData {d : List Byte} (h : d.length < 65536) : takeData (encodeData d) = .ok (d, []) := by
  simp only [encodeData, le16, List.cons_append, List.nil_append, takeData, takeHalf, ofLe16_length h, Nat.le_refl,
    if_true, List.take_length, List.drop_length]

/-! ## RoundTrip -/

/-- The record of the operation decodes to it, with every operand. -/
def RoundTrip.Statement (i : Instr) : Prop := i.wellFormed = true → decode i.format (encode i) = .ok i

theorem RoundTrip.getStatus (sp : SetupPacket) : RoundTrip.Statement (.getStatus sp) := fun h => by
  obtain ⟨ht, hr⟩ := standard_fields h rfl
  simp [Instr.format, encode, decode_encodePacket, selectRow, selectStandard, ht, hr]

theorem RoundTrip.clearFeature (sp : SetupPacket) : RoundTrip.Statement (.clearFeature sp) := fun h => by
  obtain ⟨ht, hr⟩ := standard_fields h rfl
  simp [Instr.format, encode, decode_encodePacket, selectRow, selectStandard, ht, hr]

theorem RoundTrip.setFeature (sp : SetupPacket) : RoundTrip.Statement (.setFeature sp) := fun h => by
  obtain ⟨ht, hr⟩ := standard_fields h rfl
  simp [Instr.format, encode, decode_encodePacket, selectRow, selectStandard, ht, hr]

theorem RoundTrip.setAddress (sp : SetupPacket) : RoundTrip.Statement (.setAddress sp) := fun h => by
  obtain ⟨ht, hr⟩ := standard_fields h rfl
  simp [Instr.format, encode, decode_encodePacket, selectRow, selectStandard, ht, hr]

theorem RoundTrip.getDescriptor (sp : SetupPacket) : RoundTrip.Statement (.getDescriptor sp) := fun h => by
  obtain ⟨ht, hr⟩ := standard_fields h rfl
  simp [Instr.format, encode, decode_encodePacket, selectRow, selectStandard, ht, hr]

theorem RoundTrip.setDescriptor (sp : SetupPacket) : RoundTrip.Statement (.setDescriptor sp) := fun h => by
  obtain ⟨ht, hr⟩ := standard_fields h rfl
  simp [Instr.format, encode, decode_encodePacket, selectRow, selectStandard, ht, hr]

theorem RoundTrip.getConfiguration (sp : SetupPacket) : RoundTrip.Statement (.getConfiguration sp) := fun h => by
  obtain ⟨ht, hr⟩ := standard_fields h rfl
  simp [Instr.format, encode, decode_encodePacket, selectRow, selectStandard, ht, hr]

theorem RoundTrip.setConfiguration (sp : SetupPacket) : RoundTrip.Statement (.setConfiguration sp) := fun h => by
  obtain ⟨ht, hr⟩ := standard_fields h rfl
  simp [Instr.format, encode, decode_encodePacket, selectRow, selectStandard, ht, hr]

theorem RoundTrip.getInterface (sp : SetupPacket) : RoundTrip.Statement (.getInterface sp) := fun h => by
  obtain ⟨ht, hr⟩ := standard_fields h rfl
  simp [Instr.format, encode, decode_encodePacket, selectRow, selectStandard, ht, hr]

theorem RoundTrip.setInterface (sp : SetupPacket) : RoundTrip.Statement (.setInterface sp) := fun h => by
  obtain ⟨ht, hr⟩ := standard_fields h rfl
  simp [Instr.format, encode, decode_encodePacket, selectRow, selectStandard, ht, hr]

theorem RoundTrip.stdOther (sp : SetupPacket) : RoundTrip.Statement (.stdOther sp) := fun h => by
  simp only [Instr.wellFormed, standardPatterns, Bool.and_eq_true, Bool.not_eq_true', List.any_cons, List.any_nil,
    Bool.or_eq_false_iff, SetupPacket.isStandard] at h
  obtain ⟨h0, h1⟩ := h
  have ht : sp.typeBits = 0#2 := typeBits_of_key h0 rfl rfl
  have hm : ∀ r, sp.request = r → sp.matchesRow 0xFF60#16 (r ++ (0#1 ++ 0#2 ++ 0#5)) = true :=
    fun r hr => matchesRow_of_fields ht hr
  have hn : ∀ r, sp.matchesRow 0xFF60#16 (r ++ (0#1 ++ 0#2 ++ 0#5)) = false → sp.request ≠ r := by
    intro r hf hr
    rw [hm r hr] at hf
    exact absurd hf (by decide)
  obtain ⟨a0, a1, a3, a5, a6, a7, a8, a9, aa, ab, -⟩ := h1
  simp [Instr.format, encode, decode_encodePacket, selectRow, selectStandard, ht, hn 0x00#8 a0, hn 0x01#8 a1,
    hn 0x03#8 a3, hn 0x05#8 a5, hn 0x06#8 a6, hn 0x07#8 a7, hn 0x08#8 a8, hn 0x09#8 a9, hn 0x0A#8 aa, hn 0x0B#8 ab]

theorem RoundTrip.setLineCoding (sp : SetupPacket) : RoundTrip.Statement (.setLineCoding sp) := fun h => by
  obtain ⟨ht, hr, hi⟩ := class_fields h rfl
  simp [Instr.format, encode, decode_encodePacket, selectRow, selectClass, ht, hr, hi]

theorem RoundTrip.getLineCoding (sp : SetupPacket) : RoundTrip.Statement (.getLineCoding sp) := fun h => by
  obtain ⟨ht, hr, hi⟩ := class_fields h rfl
  simp [Instr.format, encode, decode_encodePacket, selectRow, selectClass, ht, hr, hi]

theorem RoundTrip.setControlLineState (sp : SetupPacket) : RoundTrip.Statement (.setControlLineState sp) := fun h => by
  obtain ⟨ht, hr, hi⟩ := class_fields h rfl
  simp [Instr.format, encode, decode_encodePacket, selectRow, selectClass, ht, hr, hi]

theorem RoundTrip.sendBreak (sp : SetupPacket) : RoundTrip.Statement (.sendBreak sp) := fun h => by
  obtain ⟨ht, hr, hi⟩ := class_fields h rfl
  simp [Instr.format, encode, decode_encodePacket, selectRow, selectClass, ht, hr, hi]

theorem RoundTrip.classOther (sp : SetupPacket) : RoundTrip.Statement (.classOther sp) := fun h => by
  simp only [Instr.wellFormed, classPatterns, Bool.and_eq_true, Bool.not_eq_true', List.any_cons, List.any_nil,
    Bool.or_eq_false_iff, SetupPacket.isClass, beq_iff_eq] at h
  obtain ⟨⟨h0, hi⟩, h1⟩ := h
  have ht : sp.typeBits = 1#2 := typeBits_of_key h0 rfl rfl
  have hn : ∀ r, (sp.matchesRow 0xFF60#16 (r ++ (0#1 ++ 1#2 ++ 0#5)) && sp.index == Config.ifComm) = false →
      sp.request ≠ r := by
    intro r hf hr
    rw [matchesRow_of_fields ht hr, hi] at hf
    exact absurd hf (by decide)
  obtain ⟨a0, a1, a2, a3, -⟩ := h1
  simp [Instr.format, encode, decode_encodePacket, selectRow, selectClass, ht, hi, hn 0x20#8 a0, hn 0x21#8 a1,
    hn 0x22#8 a2, hn 0x23#8 a3]

theorem RoundTrip.classOtherIf (sp : SetupPacket) : RoundTrip.Statement (.classOtherIf sp) := fun h => by
  simp only [Instr.wellFormed, Bool.and_eq_true, bne_iff_ne, ne_eq] at h
  have ht : sp.typeBits = 1#2 := typeBits_of_key h.1 rfl rfl
  simp [Instr.format, encode, decode_encodePacket, selectRow, ht, h.2]

theorem RoundTrip.vendorReserved (sp : SetupPacket) : RoundTrip.Statement (.vendorReserved sp) := fun h => by
  have hb : sp.typeBits.getLsbD 1 = true := by
    have h6 : (sp.key &&& 0x0040#16).getLsbD 6 = true := by
      rw [beq_iff_eq.mp h]
      rfl
    rw [BitVec.getLsbD_and, show (0x0040#16).getLsbD 6 = true from rfl, Bool.and_true, SetupPacket.key,
      BitVec.getLsbD_append, if_pos (by omega)] at h6
    rw [SetupPacket.typeBits, BitVec.getLsbD_extractLsb']
    simpa using h6
  have h0 : sp.typeBits ≠ 0#2 := by
    intro h0
    rw [h0] at hb
    exact absurd hb (by decide)
  have h1 : sp.typeBits ≠ 1#2 := by
    intro h1
    rw [h1] at hb
    exact absurd hb (by decide)
  simp [Instr.format, encode, decode_encodePacket, selectRow, h0, h1]

theorem RoundTrip.irqInvoke : RoundTrip.Statement .irqInvoke := fun _ => rfl

theorem RoundTrip.evReady : RoundTrip.Statement .evReady := fun _ => rfl

theorem RoundTrip.evEp0DataDone : RoundTrip.Statement .evEp0DataDone := fun _ => rfl

theorem RoundTrip.evEp0Setup : RoundTrip.Statement .evEp0Setup := fun _ => rfl

theorem RoundTrip.evEpData : RoundTrip.Statement .evEpData := fun _ => rfl

theorem RoundTrip.evEndEpOut0 : RoundTrip.Statement .evEndEpOut0 := fun _ => rfl

theorem RoundTrip.evEndEpOut1 : RoundTrip.Statement .evEndEpOut1 := fun _ => rfl

theorem RoundTrip.evEndEpOut2 : RoundTrip.Statement .evEndEpOut2 := fun _ => rfl

theorem RoundTrip.evEndEpOut3 : RoundTrip.Statement .evEndEpOut3 := fun _ => rfl

theorem RoundTrip.configure : RoundTrip.Statement .configure := fun _ => rfl

theorem RoundTrip.writeByte (b : Byte) : RoundTrip.Statement (.writeByte b) := fun _ => rfl

theorem RoundTrip.writeByteSpin : RoundTrip.Statement .writeByteSpin := fun _ => rfl

theorem RoundTrip.dtr : RoundTrip.Statement .dtr := fun _ => rfl

theorem RoundTrip.rts : RoundTrip.Statement .rts := fun _ => rfl

theorem RoundTrip.decodeSetup : RoundTrip.Statement .decodeSetup := fun _ => rfl

theorem RoundTrip.dispatchSetup (sp : SetupPacket) : RoundTrip.Statement (.dispatchSetup sp) := fun _ => by
  have h := takePacket_encodePacket sp []
  rw [List.append_nil] at h
  simp [Instr.format, encode, decode, decodeCall, with1, h]

theorem RoundTrip.stallEp0 : RoundTrip.Statement .stallEp0 := fun _ => rfl

theorem RoundTrip.statusStage : RoundTrip.Statement .statusStage := fun _ => rfl

theorem RoundTrip.initEndpoint (n : Ep) : RoundTrip.Statement (.initEndpoint n) := fun h => by
  cases n
  · exact absurd h (by decide)
  all_goals rfl

theorem RoundTrip.lineCodingComplete : RoundTrip.Statement .lineCodingComplete := fun _ => rfl

theorem RoundTrip.checkShouldReset : RoundTrip.Statement .checkShouldReset := fun _ => rfl

theorem RoundTrip.getDescriptorSelect (sp : SetupPacket) : RoundTrip.Statement (.getDescriptorSelect sp) := fun _ => by
  have h := takePacket_encodePacket sp []
  rw [List.append_nil] at h
  simp [Instr.format, encode, decode, decodeCall, with1, h]

theorem RoundTrip.respond (sp : SetupPacket) (d : List Byte) : RoundTrip.Statement (.respond sp d) := fun h => by
  have hd : d.length < 65536 := by simpa [Instr.wellFormed] using h
  simp [Instr.format, encode, decode, decodeCall, with1, takePacket_encodePacket, takeData_encodeData hd]

theorem RoundTrip.enterCs : RoundTrip.Statement .enterCs := fun _ => rfl

theorem RoundTrip.enterCsIrq : RoundTrip.Statement .enterCsIrq := fun _ => rfl

theorem RoundTrip.exitCs : RoundTrip.Statement .exitCs := fun _ => rfl

theorem RoundTrip.sendViaEpIn (n : Ep) (buf : BufId) (off cnt : Half) : RoundTrip.Statement (.sendViaEpIn n buf off cnt) := fun _ => by
  cases n <;> cases buf <;>
    simp [Instr.format, encode, encodeEp, encodeBuf, decode, decodeCall, with1, takeEp, takeBuf, takeHalf, le16,
      ofLe16_le16]

theorem RoundTrip.sendUsbPacket (n : Ep) (data : List Byte) : RoundTrip.Statement (.sendUsbPacket n data) := fun h => by
  have hd : data.length < 65536 := by simpa [Instr.wellFormed] using h
  cases n <;> simp [Instr.format, encode, encodeEp, decode, decodeCall, with1, takeEp, takeData_encodeData hd]

theorem RoundTrip.sendContinuation (off rem : Half) : RoundTrip.Statement (.sendContinuation off rem) := fun _ => by
  simp [Instr.format, encode, decode, decodeCall, with1, takeHalf, le16, ofLe16_le16]

theorem RoundTrip.dmaStart (dir : Dir) (n : Ep) : RoundTrip.Statement (.dmaStart dir n) := fun _ => by
  cases dir <;> cases n <;> rfl

theorem RoundTrip.startEp0OutRead : RoundTrip.Statement .startEp0OutRead := fun _ => rfl

theorem RoundTrip.bulkOutDone (n : Ep) : RoundTrip.Statement (.bulkOutDone n) := fun _ => by
  cases n <;> rfl

theorem RoundTrip.bulkOutDeliver (n : Ep) : RoundTrip.Statement (.bulkOutDeliver n) := fun _ => by
  cases n <;> rfl

theorem RoundTrip.dmaComplete : RoundTrip.Statement .dmaComplete := fun _ => rfl

theorem RoundTrip.ringPush (b : Byte) : RoundTrip.Statement (.ringPush b) := fun _ => rfl

end Sys2Proof.Laws
end

