-- ==== Sys2Proof/Laws/Safety.lean ====
section
/-! SUPPORT. Laws of runs and of the hang H2: what a fair run does with a transfer, states that are hung and one that is not. -/

namespace Sys2Proof.Machine

/-! ## The step of DMA in a run -/

/-- The step of `DMA`, when it is enabled, ends the transfer (R196). -/
theorem dmaComplete_dma {s : State} (h : dmaEnabled s) : (dmaComplete s).dma = none := by
  obtain ⟨x, hx, hp⟩ := h
  unfold dmaComplete
  rw [hx]
  cases hd : x.dir with
  | dirIn => simp [hd, completeIn]
  | dirOut =>
    cases ho : s.bus.outData.get x.ep with
    | none => exact absurd ho (hp hd)
    | some d => simp [hd, ho, completeOut]

/-- In a run that is fair to `DMA` its step does not stay enabled for ever: a transfer in flight, and the packet it waits for
once that is there, is dealt with (R280). -/
theorem Run.dma_progress (r : Run) (hf : r.fairToDma) (n : Nat) : ∃ m, n ≤ m ∧ ¬ dmaEnabled (r.state m) := by
  refine Classical.byContradiction fun hc => ?_
  have hall : ∀ m, n ≤ m → dmaEnabled (r.state m) := fun m hm =>
    Classical.byContradiction fun he => hc ⟨m, hm, he⟩
  obtain ⟨m, hm, ht⟩ := hf n hall
  have hs := r.steps m
  rw [ht] at hs
  have e : dmaComplete { r.state m with sched := [] } = r.state (m + 1) := by
    injection hs
  obtain ⟨x, hx, -⟩ := hall (m + 1) (by omega)
  have hn := dmaComplete_dma (s := { r.state m with sched := [] }) (hall m hm)
  rw [e, hx] at hn
  cases hn

/-! ## States with the hang H2 -/

/-- A state with the hang H2 hangs every run from it that is fair to `DMA` and meets the duty. -/
theorem ForegroundHang.run {duty : HostDuty} {s : State} (h : ForegroundHang duty s) (r : Run) (h0 : r.state 0 = s)
    (hf : r.fairToDma) (hd : duty r) : r.foregroundHangs := ⟨0, fun m _ => h.2 r h0 hf hd m⟩

/-- A state with the hang H2 is not safe. -/
theorem ForegroundHang.not_safe {duty : HostDuty} {s : State} (h : ForegroundHang duty s) : ¬ s.safe duty :=
  fun hs => hs.2.2 h

@[simp] theorem hostStep_ctx (s : State) (h : HostStep) : (hostStep s h).ctx = s.ctx := by
  cases h <;> simp only [hostStep, hostReady, hostSetup, hostTakeIn, hostSendOut, hostOutControl, hostOutData, markInDone] <;>
    repeat' split
  all_goals simp

@[simp] theorem hostStep_hang (s : State) (h : HostStep) : (hostStep s h).hang = s.hang := by
  cases h <;> simp only [hostStep, hostReady, hostSetup, hostTakeIn, hostSendOut, hostOutControl, hostOutData, markInDone] <;>
    repeat' split
  all_goals simp

@[simp] theorem dmaComplete_ctx (s : State) : (dmaComplete s).ctx = s.ctx := by
  unfold dmaComplete
  repeat' split
  all_goals simp [completeIn, completeOut]

@[simp] theorem dmaComplete_hang (s : State) : (dmaComplete s).hang = s.hang := by
  unfold dmaComplete
  repeat' split
  all_goals simp [completeIn, completeOut]

/-- A single turn of `IRQ` is the operation of its phase. -/
theorem irq_turn (s : State) : step { s with sched := [.irq] } = exec (irqOperation s.ctx.irqPhase) { s with sched := [] } := by
  show runRecord _ (irqOperation s.ctx.irqPhase).format (encode (irqOperation s.ctx.irqPhase)) = _
  cases s.ctx.irqPhase <;> rfl

/-- A single turn of `FG` in a spin is one iteration of it. -/
theorem fg_turn {s : State} {b : Byte} (h : s.ctx.fg = .spin b) :
    step { s with sched := [.fg] } = exec .writeByteSpin { s with sched := [] } := by
  simp only [step, takeTurn, turnRecord, h]
  rfl

/-- A turn of `IRQ` changes nothing once `IRQ` is hung (R187). -/
theorem irq_hung {s : State} {k : HangKind} (h : s.hang = some k) :
    step { s with sched := [.irq] } = .next { s with sched := [] } := by
  rw [irq_turn]
  cases s.ctx.irqPhase <;>
    simp [irqOperation, exec, execIrqInvoke, mayInvoke, execEvReady, execEvEp0DataDone, execEvEp0Setup, execEvEpData,
      execEvEndEpOut0, execEvEndEpOut1, execEvEndEpOut2, execEvEndEpOut3, irqAt, h]

/-- A turn of `FG` with `IRQ` hung, in a spin, changes nothing. -/
theorem fg_hung {s : State} {k : HangKind} {b : Byte} (h : s.hang = some k) (hs : s.ctx.fg = .spin b) :
    step { s with sched := [.fg] } = .next { s with sched := [] } := by
  rw [fg_turn hs]
  simp [exec, execWriteByteSpin, hs, fgRuns, irqAt, h]

/-- A spin with the guard held while `IRQ` is hung stays one, whichever agent moves. -/
theorem hung_step {s t : State} {tr : Turn} (hk : s.hang = some .irqSpinDeadlock) (hs : spins s) (ha : agentTurn tr = true)
    (h : step { s with sched := [tr] } = .next t) : t.hang = some .irqSpinDeadlock ∧ spins t := by
  obtain ⟨⟨b, hb⟩, hg⟩ := hs
  cases tr with
  | irq =>
    rw [irq_hung hk] at h
    cases h
    exact ⟨hk, ⟨b, hb⟩, hg⟩
  | fg =>
    rw [fg_hung hk hb] at h
    cases h
    exact ⟨hk, ⟨b, hb⟩, hg⟩
  | dma =>
    have e : dmaComplete { s with sched := [] } = t := by injection h
    subst e
    simp [hk, spins, hb, hg]
  | call op =>
    have e : enterCall { s with sched := [] } op = t := by injection h
    subst e
    simp [enterCall, fgRuns, irqAt, hk, spins, hb, hg]
  | host op =>
    have e : hostStep { s with sched := [] } op = t := by injection h
    subst e
    simp [hk, spins, hb, hg]
  | record _ _ => cases ha
  | systemReset => cases ha

/-- A foreground spin while `IRQ` is hung is the hang H2, under every duty: no release can come (R187, R301). -/
theorem foregroundHang_of_irqHang {duty : HostDuty} {s : State} (hk : s.hang = some .irqSpinDeadlock) (hs : spins s) :
    ForegroundHang duty s := by
  refine ⟨hs, fun r h0 _ _ n => ?_⟩
  have hn : (r.state n).hang = some .irqSpinDeadlock ∧ spins (r.state n) := by
    induction n with
    | zero => exact h0 ▸ ⟨hk, hs⟩
    | succ n ih => exact hung_step ih.1 ih.2 (r.agents n) (r.steps n)
  exact hn.2

/-- A state in which only the host could end the spin: no transfer, no invocation to come. -/
structure Waits (s : State) : Prop where
  spins : spins s
  idle : s.ctx.irqPhase = .idle
  line : irqLine s.reg = false
  dma : s.dma = none

theorem Waits.step {s t : State} {tr : Turn} (hw : Waits s) (ha : agentTurn tr = true) (hh : ∀ h, tr ≠ .host h)
    (h : step { s with sched := [tr] } = .next t) : Waits t := by
  obtain ⟨⟨⟨b, hb⟩, hg⟩, hi, hl, hd⟩ := hw
  have hc : Waits { s with sched := [] } := ⟨⟨⟨b, hb⟩, hg⟩, hi, hl, hd⟩
  suffices e : t = { s with sched := [] } from e ▸ hc
  cases tr with
  | irq =>
    rw [irq_turn, hi] at h
    simpa [irqOperation, exec, execIrqInvoke, mayInvoke, hl] using h.symm
  | fg =>
    rw [fg_turn hb] at h
    simpa [exec, execWriteByteSpin, hb, spinStep, hg] using h.symm
  | dma =>
    have e : dmaComplete { s with sched := [] } = t := by injection h
    rw [← e]
    simp [dmaComplete, hd]
  | call op =>
    have e : enterCall { s with sched := [] } op = t := by injection h
    rw [← e]
    simp [enterCall, hb]
  | host op => exact absurd rfl (hh op)
  | record _ _ => cases ha
  | systemReset => cases ha

/-- Without the host's duty the spin may go on for ever: where only the host could end it and the host is silent, the state has
the hang H2 (R280, R301). -/
theorem foregroundHang_of_silent {s : State} (hw : Waits s) : ForegroundHang hostSilent s := by
  refine ⟨hw.spins, fun r h0 _ hq n => ?_⟩
  have hn : Waits (r.state n) := by
    induction n with
    | zero => exact h0 ▸ hw
    | succ n ih => exact ih.step (r.agents n) (hq n) (r.steps n)
  exact hn.spins

/-! ## A fair run, and a spin that a release ends -/

/-- Whether a step goes on. -/
def goesOn : Result → Bool
  | .next _ => true
  | .fault _ => false
  | .refused _ => false

/-- The state a step leaves; one that stops leaves the state it began in. -/
def stateAfter (s : State) (tr : Turn) : State :=
  match step { s with sched := [tr] } with
  | .next t => t
  | .fault _ => s
  | .refused _ => s

/-- The states of the agents' turns from a state, one after another. -/
def statesOf (s : State) (turn : Nat → Turn) : Nat → State
  | 0 => s
  | n + 1 => stateAfter (statesOf s turn n) (turn n)

/-- A step that goes on answers the state it leaves. -/
theorem step_stateAfter {s : State} {tr : Turn} (h : goesOn (step { s with sched := [tr] }) = true) :
    step { s with sched := [tr] } = .next (stateAfter s tr) := by
  unfold stateAfter
  cases e : step { s with sched := [tr] } <;> simp_all [goesOn]

/-- A turn of `DMA` goes on from every state. -/
theorem goesOn_dma (s : State) : goesOn (step { s with sched := [.dma] }) = true := rfl

/-- `FG` spins for the guard, and a packet is loaded on endpoint 3 for the host to take. -/
def waiting : State :=
  { State.reset with
    ctx := { Ctx.atReset with dmaBusy := true, fg := .spin 0x69#8, handlerInstalled := true }
    reg := { Regs.atReset with enable := true, usbPullup := true, inten := allCauses, epInEn := 0b1000#4 }
    bus := { Bus.atReset with ready := true, inLoaded := ⟨none, none, none, some [0x68#8]⟩ } }

/-- The host takes the packet, `IRQ` is invoked and comes to the end of D(3), then only `DMA` moves. -/
def releaseTurns (n : Nat) : Turn :=
  if n = 0 then .host (.takeIn .ep3) else if n ≤ 7 then .irq else .dma

theorem releaseTurns_dma (n : Nat) : releaseTurns (8 + n) = .dma := by
  unfold releaseTurns
  rw [if_neg (by omega), if_neg (by omega)]

/-- With nothing in flight the turns of `DMA` change nothing. -/
theorem release_steady (n : Nat) : statesOf waiting releaseTurns (8 + n) = statesOf waiting releaseTurns 8 := by
  induction n with
  | zero => rfl
  | succ n ih =>
    show stateAfter (statesOf waiting releaseTurns (8 + n)) (releaseTurns (8 + n)) = _
    rw [ih, releaseTurns_dma]
    rfl

/-- The host's turn and those of the invocation all go on. -/
theorem release_goesOn :
    ∀ n, n < 8 → goesOn (step { statesOf waiting releaseTurns n with sched := [releaseTurns n] }) = true := by decide

/-- A run of the agents, fair to `DMA`, in which the host takes every packet loaded on endpoint 3. -/
def releaseRun : Run where
  state := statesOf waiting releaseTurns
  turn := releaseTurns
  agents n := by
    unfold releaseTurns
    repeat' split
    all_goals rfl
  steps n := by
    refine step_stateAfter ?_
    rcases Nat.lt_or_ge n 8 with h | h
    · exact release_goesOn n h
    · obtain ⟨k, rfl⟩ := Nat.exists_eq_add_of_le h
      rw [releaseTurns_dma]
      exact goesOn_dma _

theorem releaseRun_fair : releaseRun.fairToDma := fun n _ => ⟨8 + n, by omega, releaseTurns_dma n⟩

theorem releaseRun_takes : hostTakesPacketsOn .ep3 releaseRun := by
  intro k h
  have hk : (statesOf waiting releaseTurns (8 + k)).bus.inLoaded.get .ep3 ≠ none := (h (8 + k) (by omega)).1
  rw [release_steady] at hk
  exact absurd rfl hk

/-- A spin that the host's duty lets end is no hang: the interrupt of the packet taken releases the guard (R118, R280). -/
theorem waiting_is_no_hang : ¬ ForegroundHang (hostTakesPacketsOn .ep3) waiting := fun h =>
  absurd (h.2 releaseRun rfl releaseRun_fair releaseRun_takes 8).2 (by decide)

/-- With that duty it is a safe state; with a silent host it is not (R301). -/
theorem waiting_safe : waiting.safe (hostTakesPacketsOn .ep3) ∧ ¬ waiting.safe hostSilent :=
  ⟨⟨rfl, rfl, waiting_is_no_hang⟩,
    (foregroundHang_of_silent (s := waiting) ⟨⟨⟨_, rfl⟩, rfl⟩, rfl, rfl, rfl⟩).not_safe⟩

end Sys2Proof.Machine
end

