-- ==== Sys2Proof/Tests/Slice0.lean ====
section
/-! SUPPORT. Tests: the WellFormed smoke tests, decoding of words written out from the spec, single steps on values of
spec/95_test_vectors.md, and for every obligation with hypotheses a state and operands that meet them. -/

namespace Sys2Proof.Tests

open Sys2Proof Sys2Proof.Machine Sys2Proof.Claims

/-- The state an operation ends in. -/
def after (i : Instr) (s : State) : State :=
  match exec i s with
  | .next t => t
  | .fault _ => s
  | .refused _ => s

/-- The reset state with `IRQ` at a phase. -/
def inPhase (p : IrqPhase) : State := State.reset.setPhase p

/-- A packet from eight bytes, as the spec's vectors write one. -/
def pkt (t r vl vh il ih ll lh : Byte) : SetupPacket := ⟨t, r, vl, vh, ofLe16 il ih, ofLe16 ll lh⟩

/-! ## WellFormed: an ill-formed term for each check -/

theorem test_wellFormed_refuses_getStatus :
    (Instr.getStatus (pkt 0x80#8 0x01#8 0x00#8 0x00#8 0x00#8 0x00#8 0x02#8 0x00#8)).wellFormed = false := by decide

theorem test_wellFormed_refuses_clearFeature :
    (Instr.clearFeature (pkt 0x00#8 0x00#8 0x00#8 0x00#8 0x00#8 0x00#8 0x00#8 0x00#8)).wellFormed = false := by decide

theorem test_wellFormed_refuses_setFeature :
    (Instr.setFeature (pkt 0x20#8 0x03#8 0x00#8 0x00#8 0x00#8 0x00#8 0x00#8 0x00#8)).wellFormed = false := by decide

theorem test_wellFormed_refuses_setAddress :
    (Instr.setAddress (pkt 0x40#8 0x05#8 0x07#8 0x00#8 0x00#8 0x00#8 0x00#8 0x00#8)).wellFormed = false := by decide

theorem test_wellFormed_refuses_getDescriptor :
    (Instr.getDescriptor (pkt 0xA0#8 0x06#8 0x00#8 0x01#8 0x00#8 0x00#8 0x12#8 0x00#8)).wellFormed = false := by decide

theorem test_wellFormed_refuses_setDescriptor :
    (Instr.setDescriptor (pkt 0x00#8 0x06#8 0x00#8 0x01#8 0x00#8 0x00#8 0x12#8 0x00#8)).wellFormed = false := by decide

theorem test_wellFormed_refuses_getConfiguration :
    (Instr.getConfiguration (pkt 0x80#8 0x09#8 0x00#8 0x00#8 0x00#8 0x00#8 0x01#8 0x00#8)).wellFormed = false := by decide

theorem test_wellFormed_refuses_setConfiguration :
    (Instr.setConfiguration (pkt 0x20#8 0x09#8 0x01#8 0x00#8 0x00#8 0x00#8 0x00#8 0x00#8)).wellFormed = false := by decide

theorem test_wellFormed_refuses_getInterface :
    (Instr.getInterface (pkt 0x81#8 0x0B#8 0x00#8 0x00#8 0x00#8 0x00#8 0x01#8 0x00#8)).wellFormed = false := by decide

theorem test_wellFormed_refuses_setInterface :
    (Instr.setInterface (pkt 0x61#8 0x0B#8 0x00#8 0x00#8 0x00#8 0x00#8 0x00#8 0x00#8)).wellFormed = false := by decide

theorem test_wellFormed_refuses_stdOther :
    (Instr.stdOther (pkt 0x82#8 0x00#8 0x00#8 0x00#8 0x83#8 0x00#8 0x02#8 0x00#8)).wellFormed = false := by decide

theorem test_wellFormed_refuses_setLineCoding :
    (Instr.setLineCoding (pkt 0x21#8 0x20#8 0x00#8 0x00#8 0x01#8 0x00#8 0x07#8 0x00#8)).wellFormed = false := by decide

theorem test_wellFormed_refuses_getLineCoding :
    (Instr.getLineCoding (pkt 0x81#8 0x21#8 0x00#8 0x00#8 0x00#8 0x00#8 0x07#8 0x00#8)).wellFormed = false := by decide

theorem test_wellFormed_refuses_setControlLineState :
    (Instr.setControlLineState (pkt 0x21#8 0x23#8 0x00#8 0x00#8 0x00#8 0x00#8 0x00#8 0x00#8)).wellFormed = false := by decide

theorem test_wellFormed_refuses_sendBreak :
    (Instr.sendBreak (pkt 0x21#8 0x23#8 0x00#8 0x00#8 0x00#8 0x01#8 0x00#8 0x00#8)).wellFormed = false := by decide

theorem test_wellFormed_refuses_classOther :
    (Instr.classOther (pkt 0xA1#8 0x21#8 0x00#8 0x00#8 0x00#8 0x00#8 0x07#8 0x00#8)).wellFormed = false := by decide

theorem test_wellFormed_refuses_classOtherIf :
    (Instr.classOtherIf (pkt 0xA1#8 0x01#8 0x00#8 0x00#8 0x00#8 0x00#8 0x40#8 0x00#8)).wellFormed = false := by decide

theorem test_wellFormed_refuses_vendorReserved :
    (Instr.vendorReserved (pkt 0x21#8 0x22#8 0x01#8 0x00#8 0x00#8 0x00#8 0x00#8 0x00#8)).wellFormed = false := by decide

theorem test_wellFormed_refuses_stdOther_type :
    (Instr.stdOther (pkt 0xA1#8 0x0C#8 0x00#8 0x00#8 0x00#8 0x00#8 0x00#8 0x00#8)).wellFormed = false := by decide

theorem test_wellFormed_refuses_classOther_index :
    (Instr.classOther (pkt 0xA1#8 0x01#8 0x00#8 0x00#8 0x02#8 0x00#8 0x40#8 0x00#8)).wellFormed = false := by decide

theorem test_wellFormed_refuses_classOtherIf_type :
    (Instr.classOtherIf (pkt 0x80#8 0x01#8 0x00#8 0x00#8 0x02#8 0x00#8 0x40#8 0x00#8)).wellFormed = false := by decide

theorem test_wellFormed_refuses_initEndpoint :
    (Instr.initEndpoint .ep0).wellFormed = false := by decide

theorem test_wellFormed_refuses_respond :
    ∀ d : List Byte, d.length = 65536 → (Instr.respond (pkt 0x80#8 0x06#8 0x00#8 0x01#8 0x00#8 0x00#8 0x12#8 0x00#8) d).wellFormed = false := by
  intro d h
  simp [Instr.wellFormed, h]

theorem test_wellFormed_refuses_sendUsbPacket :
    ∀ d : List Byte, d.length = 65536 → (Instr.sendUsbPacket .ep3 d).wellFormed = false := by
  intro d h
  simp [Instr.wellFormed, h]

/-! ## Decode: SETUP records (R80, R83 to R89, table V1) -/

theorem test_decode_getStatus :
    decode .setup [0x82#8, 0x00#8, 0x00#8, 0x00#8, 0x83#8, 0x00#8, 0x02#8, 0x00#8]
      = .ok (.getStatus ⟨0x82#8, 0x00#8, 0x00#8, 0x00#8, 0x0083#16, 0x0002#16⟩) := rfl

theorem test_decode_clearFeature :
    decode .setup [0x02#8, 0x01#8, 0x00#8, 0x00#8, 0x81#8, 0x00#8, 0x00#8, 0x00#8]
      = .ok (.clearFeature ⟨0x02#8, 0x01#8, 0x00#8, 0x00#8, 0x0081#16, 0x0000#16⟩) := rfl

theorem test_decode_setFeature :
    decode .setup [0x00#8, 0x03#8, 0x01#8, 0x00#8, 0x00#8, 0x00#8, 0x00#8, 0x00#8]
      = .ok (.setFeature ⟨0x00#8, 0x03#8, 0x01#8, 0x00#8, 0x0000#16, 0x0000#16⟩) := rfl

theorem test_decode_setAddress :
    decode .setup [0x00#8, 0x05#8, 0x07#8, 0x00#8, 0x00#8, 0x00#8, 0x00#8, 0x00#8]
      = .ok (.setAddress ⟨0x00#8, 0x05#8, 0x07#8, 0x00#8, 0x0000#16, 0x0000#16⟩) := rfl

theorem test_decode_getDescriptor :
    decode .setup [0x80#8, 0x06#8, 0x00#8, 0x01#8, 0x00#8, 0x00#8, 0x12#8, 0x00#8]
      = .ok (.getDescriptor ⟨0x80#8, 0x06#8, 0x00#8, 0x01#8, 0x0000#16, 0x0012#16⟩) := rfl

theorem test_decode_setDescriptor :
    decode .setup [0x00#8, 0x07#8, 0x00#8, 0x01#8, 0x00#8, 0x00#8, 0x12#8, 0x00#8]
      = .ok (.setDescriptor ⟨0x00#8, 0x07#8, 0x00#8, 0x01#8, 0x0000#16, 0x0012#16⟩) := rfl

theorem test_decode_getConfiguration :
    decode .setup [0x80#8, 0x08#8, 0x00#8, 0x00#8, 0x00#8, 0x00#8, 0x01#8, 0x00#8]
      = .ok (.getConfiguration ⟨0x80#8, 0x08#8, 0x00#8, 0x00#8, 0x0000#16, 0x0001#16⟩) := rfl

theorem test_decode_setConfiguration :
    decode .setup [0x00#8, 0x09#8, 0x01#8, 0x00#8, 0x00#8, 0x00#8, 0x00#8, 0x00#8]
      = .ok (.setConfiguration ⟨0x00#8, 0x09#8, 0x01#8, 0x00#8, 0x0000#16, 0x0000#16⟩) := rfl

theorem test_decode_getInterface :
    decode .setup [0x81#8, 0x0A#8, 0x00#8, 0x00#8, 0x01#8, 0x00#8, 0x01#8, 0x00#8]
      = .ok (.getInterface ⟨0x81#8, 0x0A#8, 0x00#8, 0x00#8, 0x0001#16, 0x0001#16⟩) := rfl

theorem test_decode_setInterface :
    decode .setup [0x01#8, 0x0B#8, 0x05#8, 0x00#8, 0x01#8, 0x00#8, 0x00#8, 0x00#8]
      = .ok (.setInterface ⟨0x01#8, 0x0B#8, 0x05#8, 0x00#8, 0x0001#16, 0x0000#16⟩) := rfl

theorem test_decode_stdOther :
    decode .setup [0x00#8, 0x02#8, 0x00#8, 0x00#8, 0x00#8, 0x00#8, 0x00#8, 0x00#8]
      = .ok (.stdOther ⟨0x00#8, 0x02#8, 0x00#8, 0x00#8, 0x0000#16, 0x0000#16⟩) := rfl

theorem test_decode_setLineCoding :
    decode .setup [0x21#8, 0x20#8, 0x00#8, 0x00#8, 0x00#8, 0x00#8, 0x07#8, 0x00#8]
      = .ok (.setLineCoding ⟨0x21#8, 0x20#8, 0x00#8, 0x00#8, 0x0000#16, 0x0007#16⟩) := rfl

theorem test_decode_getLineCoding :
    decode .setup [0xA1#8, 0x21#8, 0x00#8, 0x00#8, 0x00#8, 0x00#8, 0x07#8, 0x00#8]
      = .ok (.getLineCoding ⟨0xA1#8, 0x21#8, 0x00#8, 0x00#8, 0x0000#16, 0x0007#16⟩) := rfl

theorem test_decode_setControlLineState :
    decode .setup [0x20#8, 0x22#8, 0x01#8, 0x00#8, 0x00#8, 0x00#8, 0x00#8, 0x00#8]
      = .ok (.setControlLineState ⟨0x20#8, 0x22#8, 0x01#8, 0x00#8, 0x0000#16, 0x0000#16⟩) := rfl

theorem test_decode_sendBreak :
    decode .setup [0x21#8, 0x23#8, 0xE8#8, 0x03#8, 0x00#8, 0x00#8, 0x00#8, 0x00#8]
      = .ok (.sendBreak ⟨0x21#8, 0x23#8, 0xE8#8, 0x03#8, 0x0000#16, 0x0000#16⟩) := rfl

theorem test_decode_classOther :
    decode .setup [0xA1#8, 0x01#8, 0x00#8, 0x00#8, 0x00#8, 0x00#8, 0x40#8, 0x00#8]
      = .ok (.classOther ⟨0xA1#8, 0x01#8, 0x00#8, 0x00#8, 0x0000#16, 0x0040#16⟩) := rfl

theorem test_decode_classOtherIf :
    decode .setup [0xA1#8, 0x21#8, 0x00#8, 0x00#8, 0x01#8, 0x00#8, 0x07#8, 0x00#8]
      = .ok (.classOtherIf ⟨0xA1#8, 0x21#8, 0x00#8, 0x00#8, 0x0001#16, 0x0007#16⟩) := rfl

theorem test_decode_vendorReserved :
    decode .setup [0xE1#8, 0x22#8, 0x01#8, 0x00#8, 0x00#8, 0x00#8, 0x00#8, 0x00#8]
      = .ok (.vendorReserved ⟨0xE1#8, 0x22#8, 0x01#8, 0x00#8, 0x0000#16, 0x0000#16⟩) := rfl

/-! ## Decode: EVENT records (R97) -/

theorem test_decode_irqInvoke :
    decode .event [0b00000000#8] = .ok .irqInvoke := rfl

theorem test_decode_evReady :
    decode .event [0b00000001#8] = .ok .evReady := rfl

theorem test_decode_evEp0DataDone :
    decode .event [0b00000010#8] = .ok .evEp0DataDone := rfl

theorem test_decode_evEp0Setup :
    decode .event [0b00000011#8] = .ok .evEp0Setup := rfl

theorem test_decode_evEpData :
    decode .event [0b00000100#8] = .ok .evEpData := rfl

theorem test_decode_evEndEpOut0 :
    decode .event [0b00000101#8] = .ok .evEndEpOut0 := rfl

theorem test_decode_evEndEpOut1 :
    decode .event [0b00000110#8] = .ok .evEndEpOut1 := rfl

theorem test_decode_evEndEpOut2 :
    decode .event [0b00000111#8] = .ok .evEndEpOut2 := rfl

theorem test_decode_evEndEpOut3 :
    decode .event [0b00001000#8] = .ok .evEndEpOut3 := rfl

theorem test_decode_refuses_event_9 :
    decode .event [0b00001001#8] = .error .unassignedEvent := rfl

/-! ## Decode: CALL records (R97; the operands are laid out by the model, log 3) -/

theorem test_decode_configure :
    decode .call [0x00#8] = .ok .configure := rfl

theorem test_decode_writeByte :
    decode .call [0x01#8, 0x41#8] = .ok (.writeByte 0x41#8) := rfl

theorem test_decode_writeByteSpin :
    decode .call [0x02#8] = .ok .writeByteSpin := rfl

theorem test_decode_dtr :
    decode .call [0x03#8] = .ok .dtr := rfl

theorem test_decode_rts :
    decode .call [0x04#8] = .ok .rts := rfl

theorem test_decode_decodeSetup :
    decode .call [0x05#8] = .ok .decodeSetup := rfl

theorem test_decode_dispatchSetup :
    decode .call [0x06#8, 0x80#8, 0x06#8, 0x00#8, 0x01#8, 0x00#8, 0x00#8, 0x12#8, 0x00#8] = .ok (.dispatchSetup ⟨0x80#8, 0x06#8, 0x00#8, 0x01#8, 0x0000#16, 0x0012#16⟩) := rfl

theorem test_decode_stallEp0 :
    decode .call [0x07#8] = .ok .stallEp0 := rfl

theorem test_decode_statusStage :
    decode .call [0x08#8] = .ok .statusStage := rfl

theorem test_decode_initEndpoint :
    decode .call [0x09#8, 0x02#8] = .ok (.initEndpoint .ep3) := rfl

theorem test_decode_lineCodingComplete :
    decode .call [0x0A#8] = .ok .lineCodingComplete := rfl

theorem test_decode_checkShouldReset :
    decode .call [0x0B#8] = .ok .checkShouldReset := rfl

theorem test_decode_getDescriptorSelect :
    decode .call [0x0C#8, 0x80#8, 0x06#8, 0x03#8, 0x03#8, 0x09#8, 0x04#8, 0xFF#8, 0x00#8] = .ok (.getDescriptorSelect ⟨0x80#8, 0x06#8, 0x03#8, 0x03#8, 0x0409#16, 0x00FF#16⟩) := rfl

theorem test_decode_respond :
    decode .call [0x0D#8, 0x80#8, 0x06#8, 0x00#8, 0x01#8, 0x00#8, 0x00#8, 0x12#8, 0x00#8, 0x02#8, 0x00#8, 0x0A#8, 0x03#8] = .ok (.respond ⟨0x80#8, 0x06#8, 0x00#8, 0x01#8, 0x0000#16, 0x0012#16⟩ [0x0A#8, 0x03#8]) := rfl

theorem test_decode_enterCs :
    decode .call [0x0E#8] = .ok .enterCs := rfl

theorem test_decode_enterCsIrq :
    decode .call [0x0F#8] = .ok .enterCsIrq := rfl

theorem test_decode_exitCs :
    decode .call [0x10#8] = .ok .exitCs := rfl

theorem test_decode_sendViaEpIn :
    decode .call [0x11#8, 0x01#8, 0x02#8, 0x34#8, 0x12#8, 0x05#8, 0x00#8] = .ok (.sendViaEpIn .ep1 .epIn1 0x1234#16 0x0005#16) := rfl

theorem test_decode_sendUsbPacket :
    decode .call [0x12#8, 0x03#8, 0x01#8, 0x00#8, 0x68#8] = .ok (.sendUsbPacket .ep3 [0x68#8]) := rfl

theorem test_decode_sendContinuation :
    decode .call [0x13#8, 0x40#8, 0x00#8, 0x0B#8, 0x00#8] = .ok (.sendContinuation 0x0040#16 0x000B#16) := rfl

theorem test_decode_dmaStart :
    decode .call [0x14#8, 0x01#8, 0x00#8] = .ok (.dmaStart .dirOut .ep0) := rfl

theorem test_decode_startEp0OutRead :
    decode .call [0x15#8] = .ok .startEp0OutRead := rfl

theorem test_decode_bulkOutDone :
    decode .call [0x16#8, 0x02#8] = .ok (.bulkOutDone .ep2) := rfl

theorem test_decode_bulkOutDeliver :
    decode .call [0x17#8, 0x02#8] = .ok (.bulkOutDeliver .ep2) := rfl

theorem test_decode_dmaComplete :
    decode .call [0x18#8] = .ok .dmaComplete := rfl

theorem test_decode_ringPush :
    decode .call [0x19#8, 0x41#8] = .ok (.ringPush 0x41#8) := rfl

theorem test_decode_refuses_call_1A :
    decode .call [0x1A#8] = .error .unassignedCall := rfl

theorem test_decode_refuses_endpoint_4 :
    decode .call [0x16#8, 0x04#8] = .error .badEndpoint := rfl

theorem test_decode_refuses_short_packet :
    decode .setup [0x80#8, 0x06#8] = .error .shortRecord := rfl

theorem test_decodeTableWord_setup :
    decodeTableWord 16 0x0680 = some (.getDescriptor ⟨0x80#8, 0x06#8, 0#8, 0#8, 0#16, 0#16⟩) := rfl

theorem test_step_runs_fetch_word :
    ∃ t, step (State.reset.withFetchWord 8 0x00) = .next t ∧ t.ctx.handlerInstalled = true ∧ t.sched = [] := ⟨_, rfl, rfl, rfl⟩

/-! ## Single steps, standard requests (V3 and the examples of R141 to R152) -/

/-- The reset state with these halt flags. -/
def halted (flags : BitVec 4) : State := State.reset.setDev { DeviceState.unconfigured with endpointHaltFlags := flags }

theorem test_getStatus_halted :
    (after (.getStatus (pkt 0x82#8 0x00#8 0x00#8 0x00#8 0x82#8 0x00#8 0x02#8 0x00#8)) (halted 0b0100#4)).mem = [(0, 0x01#8), (1, 0x00#8)] := by decide

theorem test_getStatus_endpoint_5 :
    (after (.getStatus (pkt 0x82#8 0x00#8 0x00#8 0x00#8 0x05#8 0x00#8 0x02#8 0x00#8)) (halted 0b1111#4)).mem = [(0, 0x00#8), (1, 0x00#8)] := by decide

theorem test_clearFeature :
    (after (.clearFeature (pkt 0x02#8 0x01#8 0x00#8 0x00#8 0x83#8 0x00#8 0x00#8 0x00#8)) (halted 0b1010#4)).ctx.dev.endpointHaltFlags = 0b0010#4 := by decide

theorem test_setFeature_wakeup :
    (after (.setFeature (pkt 0x00#8 0x03#8 0x01#8 0x00#8 0x00#8 0x00#8 0x00#8 0x00#8)) State.reset).ctx.dev.remoteWakeupEnabled = true := by decide

theorem test_setFeature_halt :
    (after (.setFeature (pkt 0x02#8 0x03#8 0x00#8 0x00#8 0x81#8 0x00#8 0x00#8 0x00#8)) (halted 0b1000#4)).ctx.dev.endpointHaltFlags = 0b1010#4 := by decide

theorem test_setAddress :
    after (.setAddress (pkt 0x00#8 0x05#8 0x07#8 0x00#8 0x00#8 0x00#8 0x00#8 0x00#8)) State.reset = State.reset.setRet (.bool true) := by decide

theorem test_getDescriptor_config_9 :
    (after (.getDescriptor (pkt 0x80#8 0x06#8 0x00#8 0x02#8 0x00#8 0x00#8 0x09#8 0x00#8)) State.reset).mem.map Prod.snd
      = [0x09#8, 0x02#8, 0x4B#8, 0x00#8, 0x02#8, 0x01#8, 0x00#8, 0xA0#8, 0x32#8] := by decide

theorem test_getDescriptor_config_FF :
    (after (.getDescriptor (pkt 0x80#8 0x06#8 0x00#8 0x02#8 0x00#8 0x00#8 0xFF#8 0x00#8)) State.reset).ctx.pending = some ⟨64#16, 11#16⟩ := by decide

theorem test_setDescriptor :
    (after (.setDescriptor (pkt 0x00#8 0x07#8 0x00#8 0x01#8 0x00#8 0x00#8 0x12#8 0x00#8)) State.reset).ret = .bool false := by decide

theorem test_getConfiguration :
    (after (.getConfiguration (pkt 0x80#8 0x08#8 0x00#8 0x00#8 0x00#8 0x00#8 0x01#8 0x00#8)) (State.reset.setDev ⟨1#8, 0#8, 0#4, false⟩)).mem = [(0, 0x01#8)] := by decide

theorem test_setConfiguration :
    (after (.setConfiguration (pkt 0x00#8 0x09#8 0x05#8 0x00#8 0x00#8 0x00#8 0x00#8 0x00#8)) State.reset).reg.epInEn = 0b1010#4 := by decide

theorem test_setConfiguration_interface :
    (after (.setConfiguration (pkt 0x01#8 0x09#8 0x01#8 0x00#8 0x00#8 0x00#8 0x00#8 0x00#8)) State.reset).ret = .bool false := by decide

theorem test_getInterface :
    (after (.getInterface (pkt 0x81#8 0x0A#8 0x00#8 0x00#8 0x00#8 0x00#8 0x01#8 0x00#8)) (State.reset.setDev ⟨1#8, 5#8, 0#4, false⟩)).mem = [(0, 0x05#8)] := by decide

theorem test_setInterface :
    (after (.setInterface (pkt 0x01#8 0x0B#8 0x05#8 0x00#8 0x01#8 0x00#8 0x00#8 0x00#8)) State.reset).ctx.dev.alternateInterface = 0x05#8 := by decide

theorem test_stdOther :
    (after (.stdOther (pkt 0x82#8 0x0C#8 0x00#8 0x00#8 0x83#8 0x00#8 0x02#8 0x00#8)) State.reset).history = [] := by decide

theorem test_statusStage :
    (after .statusStage State.reset).history = [.status] := by decide

theorem test_initEndpoint_out :
    (after (.initEndpoint .ep2) State.reset).bus.outArmed.e2 = true := by decide

/-! ## Single steps, class requests (V4 and the examples of R171 to R177) -/

theorem test_setLineCoding :
    (after (.setLineCoding (pkt 0x21#8 0x20#8 0x00#8 0x00#8 0x00#8 0x00#8 0x07#8 0x00#8)) State.reset).bus.ep0RcvArmed = true := by decide

theorem test_getLineCoding_reset :
    (after (.getLineCoding (pkt 0xA1#8 0x21#8 0x00#8 0x00#8 0x00#8 0x00#8 0x07#8 0x00#8)) State.reset).mem.map Prod.snd
      = [0x00#8, 0xC2#8, 0x01#8, 0x00#8, 0x00#8, 0x00#8, 0x08#8] := by decide

/-- `21 22 FF 00 00 00 00 00` stores 0b11, unless the hook resets the system. -/
theorem test_setControlLineState :
    after (.setControlLineState (pkt 0x21#8 0x22#8 0xFF#8 0#8 0#8 0#8 0#8 0#8)) State.reset = systemReset (State.reset.nextFree) ∨
      (after (.setControlLineState (pkt 0x21#8 0x22#8 0xFF#8 0#8 0#8 0#8 0#8 0#8)) State.reset).ctx.line.lineState
        = 0b11#2 := by
  rcases checkShouldReset_cases (State.reset.setLine { LineInfo.atReset with lineState := lineStateOf 0xFF#8 }) with h | h
  · right
    show ((setControlLineState State.reset (pkt 0x21#8 0x22#8 0xFF#8 0#8 0#8 0#8 0#8 0#8)).returning).ctx.line.lineState = _
    unfold setControlLineState
    rw [show State.reset.setLine { State.reset.ctx.line with
      lineState := lineStateOf (pkt 0x21#8 0x22#8 0xFF#8 0#8 0#8 0#8 0#8 0#8).valueLow }
        = State.reset.setLine { LineInfo.atReset with lineState := lineStateOf 0xFF#8 } from rfl, h]
    rfl
  · left
    show (setControlLineState State.reset (pkt 0x21#8 0x22#8 0xFF#8 0#8 0#8 0#8 0#8 0#8)).returning = _
    unfold setControlLineState
    rw [show State.reset.setLine { State.reset.ctx.line with
      lineState := lineStateOf (pkt 0x21#8 0x22#8 0xFF#8 0#8 0#8 0#8 0#8 0#8).valueLow }
        = State.reset.setLine { LineInfo.atReset with lineState := lineStateOf 0xFF#8 } from rfl, h]
    rfl

theorem test_sendBreak :
    (after (.sendBreak (pkt 0x21#8 0x23#8 0xE8#8 0x03#8 0x00#8 0x00#8 0x00#8 0x00#8)) State.reset).history = [.status] := by decide

theorem test_classOther :
    (after (.classOther (pkt 0xA1#8 0x01#8 0x00#8 0x00#8 0x00#8 0x00#8 0x40#8 0x00#8)) State.reset).ret = .bool false := by decide

theorem test_classOtherIf :
    (after (.classOtherIf (pkt 0x21#8 0x22#8 0x03#8 0x00#8 0x01#8 0x00#8 0x00#8 0x00#8)) State.reset).ret = .bool false := by decide

theorem test_vendorReserved :
    (after (.vendorReserved (pkt 0x41#8 0x22#8 0x01#8 0x00#8 0x00#8 0x00#8 0x00#8 0x00#8)) State.reset).ret = .bool false := by decide

/-- The EP0 OUT buffer after a data stage `80 25 00 00 01 00 08`, with `AMOUNT = 7`. -/
def lineCodingIn : State :=
  let s := State.reset.setMem (Memory.storeAll [] .ep0Out 0 [0x80#8, 0x25#8, 0#8, 0#8, 0x01#8, 0#8, 0x08#8])
  s.setReg { s.reg with epOutAmount := s.reg.epOutAmount.set .ep0 7#16 }

theorem test_lineFromBytes :
    lineFromBytes LineInfo.atReset (peekAll lineCodingIn .ep0Out 0 7) = ⟨9600#32, 1#8, 0#8, 8#8, 0#2⟩ := by decide

theorem test_lineCodingComplete_short :
    (after .lineCodingComplete State.reset).ctx.line = LineInfo.atReset := by decide

theorem test_checkShouldReset :
    checkShouldReset State.reset = .go (State.reset.emit (.hook LineInfo.atReset)).nextFree () ∨
      checkShouldReset State.reset = .halt (systemReset State.reset.nextFree) := checkShouldReset_cases State.reset

/-! ## Single steps, the dispatcher (V2) -/

/-- The reset state with an event pending, its cause enabled, and the handler installed. -/
def pendingEvent (f : EventFlag) : State :=
  ((State.reset.setReg { Regs.atReset with inten := allCauses }).setHandlerInstalled true).setEvent f true

theorem test_irqInvoke :
    (after .irqInvoke (pendingEvent .epData)).ctx.irqPhase = .a := by decide

theorem test_irqInvoke_masked :
    (after .irqInvoke ((State.reset.setHandlerInstalled true).setEvent .epData true)).ctx.irqPhase = .idle := by decide

/-- The same with READY latched, at phase A. -/
def readyLatched : State :=
  let s := (pendingEvent .usbEvent).setPhase .a
  s.setReg { s.reg with eventCause := ⟨true, false⟩ }

theorem test_evReady :
    (after .evReady readyLatched).reg.usbPullup = true := by decide

theorem test_evReady_without_cause :
    (after .evReady ((pendingEvent .usbEvent).setPhase .a)).reg.usbPullup = false := by decide

theorem test_evEp0DataDone_status :
    (after .evEp0DataDone ((pendingEvent .ep0DataDone).setPhase .b)).history = [.status] := by decide

theorem test_evEp0DataDone_continuation :
    (after .evEp0DataDone (((pendingEvent .ep0DataDone).setPhase .b).setPending (some ⟨64#16, 11#16⟩))).dma
      = some ⟨.dirIn, .ep0, .ep0In, 64#16, 11#16⟩ := by decide

/-- Phase C with a setup event and this packet in the registers. -/
def setupEvent (r : SetupRegs) : State :=
  let s := (pendingEvent .ep0Setup).setPhase .c
  s.setReg { s.reg with setup := r }

theorem test_evEp0Setup_stall :
    (after .evEp0Setup (setupEvent ⟨0#8, 0x07#8, 0#8, 1#8, 0#8, 0#8, 0x12#8, 0#8⟩)).history = [.stall] := by decide

theorem test_evEp0Setup_setConfiguration :
    (after .evEp0Setup (setupEvent ⟨0#8, 0x09#8, 1#8, 0#8, 0#8, 0#8, 0#8, 0#8⟩)).ctx.dev.configurationValue = 1#8 := by decide

theorem test_evEpData_in_done_1 :
    let s := ((pendingEvent .epData).setPhase .d1).setDmaBusy true
    (after .evEpData (s.setReg { s.reg with epDataStatus := 0x2#32 })).ctx.dmaBusy = false := by decide

theorem test_evEpData_hang :
    let s := ((State.reset.setPhase .d2).setDmaBusy true).setSnap 0x00040008#32
    (after .evEpData s).hang = some .irqSpinDeadlock ∧ (after .evEpData s).ctx.irqPhase = .d2 := by decide

theorem test_evEndEpOut0_ignored :
    (after .evEndEpOut0 ((pendingEvent (.endEpOut .ep0)).setPhase .e0)).history = [] := by decide

theorem test_evEndEpOut1 :
    (after .evEndEpOut1 ((pendingEvent (.endEpOut .ep1)).setPhase .e1)).reg.events.endEpOut.e1 = false := by decide

/-- `41 42 43` in the bulk OUT buffer, with `AMOUNT = 3` and the guard held. -/
def bulkIn : State :=
  let s := (State.reset.setMem (Memory.storeAll [] .epOut2 0 [0x41#8, 0x42#8, 0x43#8])).setDmaBusy true
  s.setReg { s.reg with epOutAmount := s.reg.epOutAmount.set .ep2 3#16 }

theorem test_evEndEpOut2 :
    (after .evEndEpOut2 ((bulkIn.setEvent (.endEpOut .ep2) true).setPhase .e2)).history
      = [.push 0x41#8, .push 0x42#8, .push 0x43#8] := by decide

theorem test_evEndEpOut3_returns :
    (after .evEndEpOut3 (inPhase .e3)).ctx.irqPhase = .idle := by decide

theorem test_decodeSetup :
    (after .decodeSetup (setupEvent ⟨0x80#8, 0x06#8, 0x02#8, 0x03#8, 0x09#8, 0x04#8, 0xFF#8, 0x01#8⟩)).ret
      = .packet ⟨0x80#8, 0x06#8, 0x02#8, 0x03#8, 0x0409#16, 0x01FF#16⟩ := by decide

theorem test_dispatchSetup :
    (after (.dispatchSetup (pkt 0x21#8 0x22#8 0x03#8 0x00#8 0x01#8 0x00#8 0x00#8 0x00#8)) State.reset).ret = .bool false := by decide

theorem test_stallEp0 :
    (after .stallEp0 State.reset).history = [.stall] := by decide

/-! ## Single steps, endpoint I/O (V5) -/

theorem test_enterCs :
    (after .enterCs State.reset).ctx.dmaBusy = true := by decide

theorem test_enterCsIrq_hang :
    (after .enterCsIrq (State.reset.setDmaBusy true)).hang = some .irqSpinDeadlock := by decide

theorem test_exitCs :
    (after .exitCs (State.reset.setDmaBusy true)).ctx.dmaBusy = false := by decide

theorem test_sendViaEpIn :
    (after (.sendViaEpIn .ep1 .epIn1 0#16 16#16) State.reset).dma = some ⟨.dirIn, .ep1, .epIn1, 0#16, 16#16⟩ := by decide

theorem test_sendViaEpIn_outside :
    (after (.sendViaEpIn .ep1 .epIn1 1#16 16#16) State.reset).faults = [.dmaBounds .epIn1 1 16] := by decide

theorem test_sendUsbPacket_65 :
    (after (.sendUsbPacket .ep0 (List.replicate 65 0xAA#8)) State.reset).ctx.pending = some ⟨64#16, 1#16⟩ := by decide

theorem test_sendUsbPacket_0 :
    (after (.sendUsbPacket .ep0 []) State.reset).dma = some ⟨.dirIn, .ep0, .ep0In, 0#16, 0#16⟩ := by decide

theorem test_sendContinuation_11 :
    (after (.sendContinuation 64#16 11#16) State.reset).dma = some ⟨.dirIn, .ep0, .ep0In, 64#16, 11#16⟩ := by decide

theorem test_sendContinuation_66 :
    (after (.sendContinuation 64#16 66#16) State.reset).ctx.pending = some ⟨128#16, 2#16⟩ := by decide

/-- A one-byte packet of `WriteByte` in flight (program P6). -/
def inFlight : State := State.reset.setDma (some ⟨.dirIn, .ep3, .epIn3, 0#16, 1#16⟩)

theorem test_dmaStart_contention :
    (after (.dmaStart .dirIn .ep0) inFlight).faults
      = [.dmaContention ⟨.dirIn, .ep3, .epIn3, 0#16, 1#16⟩ .dirIn .ep0] := by decide

theorem test_startEp0OutRead :
    (after .startEp0OutRead State.reset).dma = some ⟨.dirOut, .ep0, .ep0Out, 0#16, 64#16⟩ := by decide

theorem test_bulkOutDone :
    let s := State.reset.setReg { Regs.atReset with sizeEpOut := ⟨0#8, 0#8, 3#8, 0#8⟩ }
    (after (.bulkOutDone .ep2) s).dma = some ⟨.dirOut, .ep2, .epOut2, 0#16, 3#16⟩ := by decide

theorem test_bulkOutDeliver :
    (after (.bulkOutDeliver .ep2) bulkIn).history = [.push 0x41#8, .push 0x42#8, .push 0x43#8] := by decide

theorem test_bulkOutDeliver_releases :
    (after (.bulkOutDeliver .ep2) bulkIn).ctx.dmaBusy = false := by decide

theorem test_dmaComplete_in :
    (after .dmaComplete (inFlight.setMem [(480, 0x68#8)])).bus.inLoaded.e3 = some [0x68#8] := by decide

theorem test_dmaComplete_out :
    let s := State.reset.setDma (some ⟨.dirOut, .ep2, .epOut2, 0#16, 2#16⟩)
    (after .dmaComplete (s.setBus { s.bus with outData := s.bus.outData.set .ep2 (some [0x41#8, 0x42#8, 0x43#8]) })).mem
      = [(416, 0x41#8), (417, 0x42#8)] := by decide

theorem test_ringPush :
    (after (.ringPush 0x41#8) State.reset).history = [.push 0x41#8] := by decide

theorem test_ringPush_handed_over :
    (after (.ringPush 0x41#8) State.reset).sink.map Handed.byte = [0x41#8] := rfl

/-! ## Single steps, descriptors (V6) and the facade (V7) -/

theorem test_getDescriptorSelect_serial :
    (after (.getDescriptorSelect (pkt 0x80#8 0x06#8 0x03#8 0x03#8 0x09#8 0x04#8 0xFF#8 0x00#8)) State.reset).history = [.status] := by decide

theorem test_getDescriptorSelect_bos :
    (after (.getDescriptorSelect (pkt 0x80#8 0x06#8 0x00#8 0x0F#8 0x00#8 0x00#8 0x05#8 0x00#8)) State.reset).ret = .bool false := by decide

theorem test_respond_cut :
    (after (.respond (pkt 0x80#8 0x06#8 0x01#8 0x03#8 0x09#8 0x04#8 0x02#8 0x00#8) (strDesc [0x41#8, 0x63#8, 0x6D#8, 0x65#8])) State.reset).mem = [(0, 0x0A#8), (1, 0x03#8)] := by decide

theorem test_strDesc_Acme :
    strDesc [0x41#8, 0x63#8, 0x6D#8, 0x65#8] = [0x0A#8, 0x03#8, 0x41#8, 0x00#8, 0x63#8, 0x00#8, 0x6D#8, 0x00#8, 0x65#8, 0x00#8] := by decide

theorem test_configure :
    (after .configure State.reset).reg.enable = true ∧ (after .configure State.reset).reg.usbPullup = false := by decide

/-- The reset state with this line state. -/
def lines (v : BitVec 2) : State := State.reset.setLine { LineInfo.atReset with lineState := v }

theorem test_writeByte :
    (after (.writeByte 0x41#8) (lines 0b10#2)).mem = [(480, 0x41#8)] := by decide

theorem test_writeByte_spins :
    (after (.writeByte 0x41#8) ((lines 0b01#2).setDmaBusy true)).ctx.fg = .spin 0x41#8 := by decide

theorem test_writeByteSpin :
    (after .writeByteSpin ((lines 0b01#2).setFg (.spin 0x69#8))).mem = [(480, 0x69#8)] := by decide

theorem test_dtr :
    (after .dtr (lines 0b01#2)).ret = .bool true := by decide

theorem test_rts :
    (after .rts (lines 0b01#2)).ret = .bool false := by decide

/-! ## Witnesses: states and operands that meet the hypotheses of each obligation, clause by clause -/

/-- The reset state with this schedule. -/
def sched (turns : List Turn) : State := { State.reset with sched := turns }

theorem witness_DecodeOfEncodeIsIdentity :
    (Instr.sendUsbPacket .ep3 [0x68#8]).wellFormed = true := by decide

theorem witness_DecodedOperationsAreWellFormed :
    decode .call [0x09#8, 0x02#8] = .ok (.initEndpoint .ep3) := rfl

theorem witness_UnassignedRecordsStop :
    (8 < (0x09#8).toNat % 16 ∧ (sched [.record .event [0x09#8]]).sched = .record .event (0x09#8 :: []) :: []) ∧
      (8 < (0xFF#8).toNat % 16 ∧ (sched [.record .event [0xFF#8]]).sched = .record .event (0xFF#8 :: []) :: []) ∧
      (0x19 < (0x1A#8).toNat ∧ (sched [.record .call [0x1A#8]]).sched = .record .call (0x1A#8 :: []) :: []) ∧
      (0x19 < (0xFF#8).toNat ∧ (sched [.record .call [0xFF#8]]).sched = .record .call (0xFF#8 :: []) :: []) := by decide

theorem witness_StepRunsRecordedOperation :
    (sched [.record .call [0x00#8]]).sched = .record .call [0x00#8] :: [] ∧ decode .call [0x00#8] = .ok .configure := ⟨rfl, rfl⟩

theorem witness_StepRunsPhaseOperation :
    ∀ p : IrqPhase, ((sched [.irq]).setPhase p).sched = .irq :: [] ∧ ((sched [.irq]).setPhase p).ctx.irqPhase = p := fun _ => ⟨rfl, rfl⟩

theorem witness_StepRunsForegroundAndDmaOperation :
    (∀ p : FgPos, ((sched [.fg]).setFg p).sched = .fg :: [] ∧ ((sched [.fg]).setFg p).ctx.fg = p) ∧
      ((sched [.call .dtr]).sched = .call .dtr :: [] ∧ AtPhase (sched [.call .dtr]) .idle ∧
        (sched [.call .dtr]).ctx.fg = .ready) ∧
      (sched [.dma]).sched = .dma :: [] ∧ (sched [.systemReset]).sched = .systemReset :: [] := ⟨fun _ => ⟨rfl, rfl⟩, ⟨rfl, ⟨rfl, rfl⟩, rfl⟩, rfl, rfl⟩

/-- A state with a byte of the bulk OUT buffer written, a transfer in flight, a status bit and a fault. -/
def busyState : State :=
  let s := ((sched [.dma]).setMem [(416, 0x41#8)]).setDma (some ⟨.dirIn, .ep2, .epOut2, 0#16, 1#16⟩)
  (s.setReg { s.reg with epDataStatus := 0x00000008#32 }).raise (.responseTooLong 257)

theorem witness_StepKeepsInvariant : Inv busyState ∧ ∃ t, step busyState = .next t := by
  refine ⟨⟨by decide, rfl, by decide, by decide, fun _ _ => rfl, ?_, ?_, ?_, ?_, by decide⟩, _, rfl⟩
  · intro t h
    cases h
    decide
  · intro n d h
    have e : (none : Option (List Byte)) = some d := by cases n <;> exact h
    cases e
  · intro n
    cases n <;> decide
  · intro n
    cases n <;> decide

theorem witness_FaultsAreNeverRemoved :
    ∃ t, step busyState = .next t ∧ .responseTooLong 257 ∈ busyState.faults := ⟨_, rfl, by decide⟩

theorem witness_TransferInFlightIsNeverReplaced :
    ∃ t, inFlight.dma = some ⟨.dirIn, .ep3, .epIn3, 0#16, 1#16⟩ ∧ exec (.dmaStart .dirIn .ep0) inFlight = .next t := ⟨_, rfl, rfl⟩

theorem witness_GuardChangesOnlyAtItsUsers :
    (∃ t, exec .enterCsIrq State.reset = .next t ∧ State.reset.ctx.dmaBusy = false ∧ t.ctx.dmaBusy = true) ∧
      ∃ t, exec .exitCs (State.reset.setDmaBusy true) = .next t ∧ (State.reset.setDmaBusy true).ctx.dmaBusy = true ∧
        t.ctx.dmaBusy = false := ⟨⟨_, rfl, rfl, rfl⟩, _, rfl, rfl, rfl⟩

/-- Clause one: the line state goes from 0b11 to 0b00, by the request or, if the hook resets the system, by the reset. -/
theorem witness_LineAndDeviceStateHaveFewWriters :
    (∃ t, exec (.setControlLineState (pkt 0x21#8 0x22#8 0#8 0#8 0#8 0#8 0#8 0#8)) (lines 0b11#2) = .next t ∧
        t.ctx.line ≠ (lines 0b11#2).ctx.line) ∧
      ∃ t, exec (.setInterface (pkt 0x01#8 0x0B#8 5#8 0#8 1#8 0#8 0#8 0#8)) State.reset = .next t ∧
        t.ctx.dev ≠ State.reset.ctx.dev := by
  refine ⟨?_, _, rfl, by decide⟩
  have h : ((setControlLineState (lines 0b11#2) (pkt 0x21#8 0x22#8 0#8 0#8 0#8 0#8 0#8 0#8)).returning).ctx.line.lineState
      = 0b00#2 := by
    unfold setControlLineState
    rcases checkShouldReset_cases ((lines 0b11#2).setLine { (lines 0b11#2).ctx.line with
      lineState := lineStateOf (pkt 0x21#8 0x22#8 0#8 0#8 0#8 0#8 0#8 0#8).valueLow }) with h | h <;> rw [h] <;> rfl
  refine ⟨_, rfl, fun e => ?_⟩
  have e' : (0b00#2 : BitVec 2) = 0b11#2 := h.symm.trans (congrArg LineInfo.lineState e)
  exact absurd e' (by decide)

theorem witness_ForegroundTakesNoStepWhileIrqActive :
    ((sched [.fg]).setPhase .d1).ctx.irqPhase ≠ .idle ∧ foregroundOperation .dtr ∧
      ((sched [.fg]).setPhase .d1).sched = .fg :: [] ∧ ((sched [.call .rts]).setPhase .e3).ctx.irqPhase ≠ .idle ∧
      ((sched [.call .rts]).setPhase .e3).sched = .call .rts :: [] := ⟨by decide, .inr (.inr (.inr (.inl rfl))), rfl, by decide, rfl⟩

theorem witness_InterruptAcquisitionTakesOrHangs :
    ((sched [.irq]).setHang (some .irqSpinDeadlock)).hang = some .irqSpinDeadlock ∧ blockTurn .irq ∧
      ((sched [.irq]).setHang (some .irqSpinDeadlock)).sched = .irq :: [] := ⟨rfl, .inl rfl, rfl⟩

theorem witness_HostStepsLeaveTheBlockAlone :
    ∃ t, (sched [.host .ready]).sched = .host .ready :: [] ∧ step (sched [.host .ready]) = .next t := ⟨_, rfl, rfl⟩

/-- Enabled; and not enabled for each reason: a cause masked in INTEN, no event, no handler, `IRQ` active, `IRQ` hung. -/
theorem witness_InvocationEntersPhaseA :
    InvocationEnabled (pendingEvent (.endEpOut .ep3)) ∧ InvocationEnabled (pendingEvent .usbEvent) ∧
      ¬ InvocationEnabled ((State.reset.setHandlerInstalled true).setEvent .epData true) ∧
      ¬ InvocationEnabled ((pendingEvent .epData).setEvent .epData false) ∧
      ¬ InvocationEnabled ((pendingEvent .epData).setHandlerInstalled false) ∧
      ¬ InvocationEnabled ((pendingEvent .epData).setPhase .e3) ∧
      ¬ InvocationEnabled ((pendingEvent .epData).setHang (some .irqSpinDeadlock)) := by
  refine ⟨⟨rfl, ⟨rfl, rfl⟩, .inr (.inr (.inr (.inr ⟨.ep3, rfl, rfl⟩)))⟩, ⟨rfl, ⟨rfl, rfl⟩, .inl ⟨rfl, rfl⟩⟩, ?_, ?_,
    fun h => absurd h.1 (by decide), fun h => absurd h.2.1.1 (by decide), fun h => absurd h.2.1.2 (by decide)⟩
  · rintro ⟨-, -, h | h | h | h | ⟨n, h, -⟩⟩
    · exact absurd h.1 (by decide)
    · exact absurd h.1 (by decide)
    · exact absurd h.1 (by decide)
    · exact absurd h.1 (by decide)
    · cases n <;> exact absurd h (by decide)
  · rintro ⟨-, -, h | h | h | h | ⟨n, -, h⟩⟩
    · exact absurd h.2 (by decide)
    · exact absurd h.2 (by decide)
    · exact absurd h.2 (by decide)
    · exact absurd h.2 (by decide)
    · cases n <;> exact absurd h (by decide)

/-- Ten turns of `IRQ` and one more, at phase A with no flag set. -/
def quiet : State :=
  (sched ([.irq, .irq, .irq, .irq, .irq, .irq, .irq, .irq, .irq, .irq] ++ [.dma])).setPhase .a

theorem witness_QuietInvocationReturnsToIdle :
    AtPhase quiet .a ∧ quiet.reg.events = Regs.atReset.events ∧ Regs.atReset.events.endEpOut = ⟨false, false, false, false⟩ ∧
      quiet.sched = [.irq, .irq, .irq, .irq, .irq, .irq, .irq, .irq, .irq, .irq] ++ [.dma] := ⟨⟨rfl, rfl⟩, rfl, rfl, rfl⟩

theorem witness_BusReadyPhase :
    (AtPhase (inPhase .a) .a ∧ (inPhase .a).reg.events.usbEvent = false) ∧
      (AtPhase ((pendingEvent .usbEvent).setPhase .a) .a ∧ ((pendingEvent .usbEvent).setPhase .a).reg.events.usbEvent = true ∧
        ((pendingEvent .usbEvent).setPhase .a).reg.eventCause.ready = false) ∧
      (AtPhase readyLatched .a ∧ readyLatched.reg.events.usbEvent = true ∧ readyLatched.reg.eventCause.ready = true) := ⟨⟨⟨rfl, rfl⟩, rfl⟩, ⟨⟨rfl, rfl⟩, rfl, rfl⟩, ⟨rfl, rfl⟩, rfl, rfl⟩

/-- Phase B with the data-done event. -/
def dataDoneEvent : State := (pendingEvent .ep0DataDone).setPhase .b

theorem witness_DataDonePhase :
    (AtPhase (inPhase .b) .b ∧ (inPhase .b).reg.events.ep0DataDone = false) ∧
      (AtPhase (dataDoneEvent.setLineCodingPending true) .b ∧
        (dataDoneEvent.setLineCodingPending true).reg.events.ep0DataDone = true ∧
        (dataDoneEvent.setLineCodingPending true).ctx.lineCodingPending = true) ∧
      (AtPhase (dataDoneEvent.setPending (some ⟨64#16, 11#16⟩)) .b ∧
        (dataDoneEvent.setPending (some ⟨64#16, 11#16⟩)).reg.events.ep0DataDone = true ∧
        (dataDoneEvent.setPending (some ⟨64#16, 11#16⟩)).ctx.lineCodingPending = false ∧
        (dataDoneEvent.setPending (some ⟨64#16, 11#16⟩)).ctx.pending = some ⟨64#16, 11#16⟩) ∧
      (AtPhase dataDoneEvent .b ∧ dataDoneEvent.reg.events.ep0DataDone = true ∧
        dataDoneEvent.ctx.lineCodingPending = false ∧ dataDoneEvent.ctx.pending = none) := ⟨⟨⟨rfl, rfl⟩, rfl⟩, ⟨⟨rfl, rfl⟩, rfl, rfl⟩, ⟨⟨rfl, rfl⟩, rfl, rfl, rfl⟩, ⟨rfl, rfl⟩, rfl, rfl, rfl⟩

theorem witness_SetupPhaseRunsSelectedRequest :
    (AtPhase (inPhase .c) .c ∧ (inPhase .c).reg.events.ep0Setup = false) ∧
      (AtPhase (setupEvent ⟨0#8, 0x07#8, 0#8, 1#8, 0#8, 0#8, 0x12#8, 0#8⟩) .c ∧
        (setupEvent ⟨0#8, 0x07#8, 0#8, 1#8, 0#8, 0#8, 0x12#8, 0#8⟩).reg.events.ep0Setup = true) := ⟨⟨⟨rfl, rfl⟩, rfl⟩, ⟨rfl, rfl⟩, rfl⟩

theorem witness_EpDataPhaseOfInEndpoints :
    (∀ p, (inPhase p).ctx.epTable = epTableConst) ∧ AtPhase (inPhase .d1) .d1 ∧ AtPhase (inPhase .d3) .d3 := ⟨fun _ => rfl, ⟨rfl, rfl⟩, rfl, rfl⟩

theorem witness_EpDataPhaseOfBulkOut :
    (inPhase .d2).ctx.epTable = epTableConst ∧ AtPhase (inPhase .d2) .d2 ∧ (inPhase .d2).epDataSnap.getLsbD 18 = false ∧
      (AtPhase (((inPhase .d2).setSnap 0x00040000#32).setDmaBusy true) .d2 ∧
        (((inPhase .d2).setSnap 0x00040000#32).setDmaBusy true).epDataSnap.getLsbD 18 = true ∧
        (((inPhase .d2).setSnap 0x00040000#32).setDmaBusy true).ctx.dmaBusy = true) ∧
      (((inPhase .d2).setSnap 0x00040000#32).epDataSnap.getLsbD 18 = true ∧
        ((inPhase .d2).setSnap 0x00040000#32).ctx.dmaBusy = false) := ⟨rfl, ⟨rfl, rfl⟩, rfl, ⟨⟨rfl, rfl⟩, rfl, rfl⟩, rfl, rfl⟩

theorem witness_EndOfOutPhases :
    (AtPhase (inPhase .e0) .e0 ∧ (inPhase .e0).reg.events.endEpOut.e0 = false ∧ (inPhase .e0).ctx.lineCodingPending = false) ∧
      (AtPhase (((pendingEvent (.endEpOut .ep0)).setPhase .e0).setLineCodingPending true) .e0 ∧
        (((pendingEvent (.endEpOut .ep0)).setPhase .e0).setLineCodingPending true).reg.events.endEpOut.e0 = true ∧
        (((pendingEvent (.endEpOut .ep0)).setPhase .e0).setLineCodingPending true).ctx.lineCodingPending = true) ∧
      AtPhase (inPhase .e1) .e1 ∧ (AtPhase (inPhase .e2) .e2 ∧ (inPhase .e2).reg.events.endEpOut.e2 = false) ∧
      ((bulkIn.setEvent (.endEpOut .ep2) true).setPhase .e2).reg.events.endEpOut.e2 = true ∧ AtPhase (inPhase .e3) .e3 := ⟨⟨⟨rfl, rfl⟩, rfl, rfl⟩, ⟨⟨rfl, rfl⟩, rfl, rfl⟩, ⟨rfl, rfl⟩, ⟨⟨rfl, rfl⟩, rfl⟩, rfl, rfl, rfl⟩

theorem witness_GetStatusReportsHaltFlag :
    (halted 0b1111#4).dma = none ∧ (0x82#8).toNat % 32 = 2 ∧ (0x9F#8).toNat % 32 ≠ 2 := by decide

theorem witness_FeatureAndInterfaceRequests :
    (pkt 0x02#8 0x01#8 0#8 0#8 0x83#8 0#8 0#8 0#8).valueLow = 0#8 ∧ (pkt 0#8 0x03#8 1#8 0#8 0#8 0#8 0#8 0#8).valueLow = 1#8 ∧
      (pkt 0#8 0x03#8 2#8 0#8 0#8 0#8 0#8 0#8).valueLow ≠ 0#8 ∧ (pkt 0#8 0x03#8 2#8 0#8 0#8 0#8 0#8 0#8).valueLow ≠ 1#8 := by decide

theorem witness_ConfigurationAndInterfaceReported :
    State.reset.dma = none := rfl

theorem witness_SetConfigurationEnablesEndpoints :
    State.reset.ctx.epTable = epTableConst ∧ (pkt 0#8 0x09#8 1#8 0#8 0#8 0#8 0#8 0#8).requestType.toNat % 32 = 0 := ⟨rfl, rfl⟩

theorem witness_InitEndpointByDirection :
    State.reset.ctx.epTable = epTableConst := rfl

theorem witness_RequestsThatOnlyReturn :
    (pkt 0x01#8 0x09#8 1#8 0#8 0#8 0#8 0#8 0#8).requestType.toNat % 32 ≠ 0 := by decide

theorem witness_RefusedRequestsStall :
    (decode .setup (setupBytes (setupEvent ⟨0#8, 0x07#8, 0#8, 1#8, 0#8, 0#8, 0x12#8, 0#8⟩).reg.setup)
        = .ok (.setDescriptor ⟨0#8, 0x07#8, 0#8, 1#8, 0#16, 0x12#16⟩) ∧
        AtPhase (setupEvent ⟨0#8, 0x07#8, 0#8, 1#8, 0#8, 0#8, 0x12#8, 0#8⟩) .c ∧
        (setupEvent ⟨0#8, 0x07#8, 0#8, 1#8, 0#8, 0#8, 0x12#8, 0#8⟩).reg.events.ep0Setup = true) ∧
      decode .setup (setupBytes (setupEvent ⟨0xA1#8, 0x01#8, 0#8, 0#8, 0#8, 0#8, 0x40#8, 0#8⟩).reg.setup)
        = .ok (.classOther ⟨0xA1#8, 0x01#8, 0#8, 0#8, 0#16, 0x40#16⟩) ∧
      AtPhase (setupEvent ⟨0xA1#8, 0x01#8, 0#8, 0#8, 0#8, 0#8, 0x40#8, 0#8⟩) .c := ⟨⟨rfl, ⟨rfl, rfl⟩, rfl⟩, rfl, rfl, rfl⟩

/-- A transfer in flight; each clause's operands, at the ends of their ranges. -/
theorem witness_ResponseUnderTransferFaults :
    inFlight.dma = some ⟨.dirIn, .ep3, .epIn3, 0#16, 1#16⟩ ∧
      ((0x82#8).toNat % 32 = 2 ∧ (0x9F#8).toNat % 32 ≠ 2) ∧
      (List.replicate 16 0#8 : List Byte).length ≤ capacity (inBuf .ep1) ∧
      min (List.replicate 256 0#8 : List Byte).length (0xFFFF#16).toNat ≤ 256 ∧
      AsksFor (pkt 0x80#8 6#8 0#8 1#8 0#8 0#8 0x12#8 0#8) deviceBytes ∧
      AsksFor (pkt 0x80#8 6#8 0#8 2#8 0#8 0#8 0xFF#8 0#8) configBytes ∧
      AsksFor (pkt 0x80#8 6#8 0#8 3#8 0#8 0#8 0xFF#8 0#8) [0x04#8, 0x03#8, 0x09#8, 0x04#8] ∧
      AsksFor (pkt 0x80#8 6#8 1#8 3#8 0#8 0#8 0xFF#8 0#8) (stringBytes Config.strManufacturer) ∧
      AsksFor (pkt 0x80#8 6#8 2#8 3#8 0#8 0#8 0xFF#8 0#8) (stringBytes Config.strProduct) ∧
      ((pkt 0x80#8 6#8 3#8 3#8 0#8 0#8 0xFF#8 0#8).valueHigh = 0x03#8 ∧
        (pkt 0x80#8 6#8 3#8 3#8 0#8 0#8 0xFF#8 0#8).valueLow = 0x03#8) ∧
      ((pkt 0x80#8 6#8 4#8 3#8 0#8 0#8 0xFF#8 0#8).valueHigh = 0x03#8 ∧
        3 < (pkt 0x80#8 6#8 4#8 3#8 0#8 0#8 0xFF#8 0#8).valueLow.toNat) ∧
      (pkt 0x80#8 6#8 0#8 0#8 0#8 0#8 0xFF#8 0#8).valueHigh = 0x00#8 ∧
      3 < (pkt 0x80#8 6#8 0#8 4#8 0#8 0#8 0xFF#8 0#8).valueHigh.toNat := by
  refine ⟨rfl, ⟨by decide, by decide⟩, ?_, ?_, .inl ⟨rfl, rfl⟩, .inr (.inl ⟨rfl, rfl⟩),
    .inr (.inr (.inl ⟨rfl, rfl, rfl⟩)), .inr (.inr (.inr (.inl ⟨rfl, rfl, rfl⟩))),
    .inr (.inr (.inr (.inr ⟨rfl, rfl, rfl⟩))), ⟨rfl, rfl⟩, ⟨rfl, by decide⟩, rfl, by decide⟩ <;>
    rw [List.length_replicate] <;> decide

theorem witness_GetLineCodingIsBitExact :
    State.reset.dma = none := rfl

theorem witness_SetControlLineStateStoresTwoBits :
    ∃ l : LineInfo, l = { State.reset.ctx.line with lineState := BitVec.ofNat 2 (0xFF#8).toNat } ∧ l.lineState = 0b11#2 := ⟨_, rfl, rfl⟩

/-- The data stage in, with the IN transfer of the last response still in flight: a read of it races nothing. -/
def lineCodingInBusy : State := lineCodingIn.setDma (some ⟨.dirIn, .ep0, .ep0In, 0#16, 7#16⟩)

/-- Nothing written, and an OUT transfer into the buffer in flight: a read races it, byte by byte. -/
def lineCodingRaced : State :=
  let s := State.reset.setDma (some ⟨.dirOut, .ep0, .ep0Out, 0#16, 64#16⟩)
  s.setReg { s.reg with epOutAmount := s.reg.epOutAmount.set .ep0 7#16 }

theorem witness_LineCodingPayloadParsed :
    (6 < 7 ∧ (State.reset.reg.epOutAmount.e0).toNat < 7) ∧
      (7 ≤ lineCodingInBusy.reg.epOutAmount.e0.toNat ∧ (∀ j, j < 7 → ¬ RacedRead lineCodingInBusy .ep0Out j) ∧
        Holds lineCodingInBusy.mem .ep0Out 0 [0x80#8, 0x25#8, 0#8, 0#8, 0x01#8, 0#8, 0x08#8] ∧
        (9600#32).toNat = (0x80#8).toNat + 2 ^ 8 * (0x25#8).toNat + 2 ^ 16 * (0#8).toNat + 2 ^ 24 * (0#8).toNat) ∧
      (7 ≤ lineCodingRaced.reg.epOutAmount.e0.toNat ∧ RacedRead lineCodingRaced .ep0Out 0 ∧
        RacedRead lineCodingRaced .ep0Out 6 ∧ lineCodingRaced.mem.load .ep0Out 0 = none) := by
  refine ⟨by decide, ⟨by decide, ?_, ?_, by decide⟩, by decide, ⟨_, rfl, rfl, rfl, by decide, by decide⟩,
    ⟨_, rfl, rfl, rfl, by decide, by decide⟩, rfl⟩
  · rintro j - ⟨x, hx, hd, -⟩
    cases hx
    cases hd
  · intro j hj
    have h : ∀ j : Fin 7, lineCodingInBusy.mem.load .ep0Out (0 + j.val)
        = [0x80#8, 0x25#8, 0#8, 0#8, 0x01#8, 0#8, 0x08#8][j.val]? := by decide
    exact h ⟨j, hj⟩

theorem witness_GetDescriptorAnswersByType :
    State.reset.dma = none ∧ (pkt 0x80#8 6#8 4#8 3#8 0#8 0#8 0xFF#8 0#8).valueHigh = 3#8 ∧
      3 < (pkt 0x80#8 6#8 4#8 3#8 0#8 0#8 0xFF#8 0#8).valueLow.toNat ∧ 3 < (pkt 0x80#8 6#8 0#8 4#8 0#8 0#8 0xFF#8 0#8).valueHigh.toNat ∧
      (∀ v : Fin 4, (pkt 0x80#8 6#8 (BitVec.ofNat 8 v.val) 3#8 0#8 0#8 0xFF#8 0#8).valueLow = BitVec.ofNat 8 v.val) ∧
      ∀ v : Fin 3, (pkt 0x80#8 6#8 0#8 (BitVec.ofNat 8 v.val) 0#8 0#8 0xFF#8 0#8).valueHigh = BitVec.ofNat 8 v.val := ⟨rfl, rfl, by decide, by decide, fun _ => rfl, fun _ => rfl⟩

theorem witness_NoResponseIsTooLong :
    ∃ t, exec (.dispatchSetup (pkt 0#8 5#8 7#8 0#8 0#8 0#8 0#8 0#8)) busyState = .next t ∧ .responseTooLong 257 ∈ t.faults := ⟨_, rfl, by decide⟩

theorem witness_RespondCutsToLength :
    (State.reset.dma = none ∧ min (List.replicate 256 0#8 : List Byte).length (0xFFFF#16).toNat ≤ 256) ∧
      256 < min (List.replicate 257 0#8 : List Byte).length (257#16).toNat := by
  refine ⟨⟨rfl, ?_⟩, ?_⟩ <;> rw [List.length_replicate] <;> decide

theorem witness_SendUsbPacketSplitsControlOnly :
    (State.reset.dma = none ∧ (List.replicate 256 0#8 : List Byte).length ≤ 256) ∧
      (Ep.ep1 ≠ .ep0 ∧ (List.replicate 16 0#8 : List Byte).length ≤ capacity (inBuf .ep1)) ∧
      capacity (inBuf .ep1) < (List.replicate 17 0#8 : List Byte).length := by
  refine ⟨⟨rfl, ?_⟩, ⟨by decide, ?_⟩, ?_⟩ <;> rw [List.length_replicate] <;> decide

theorem witness_SendContinuationAdvances :
    (State.reset.dma = none ∧ (192#16).toNat + min (64#16).toNat 64 ≤ capacity .ep0In ∧ (64#16).toNat ≤ 64) ∧
      ¬ (193#16).toNat + min (65#16).toNat 64 ≤ capacity .ep0In ∧ ¬ (65#16).toNat ≤ 64 ∧
      inFlight.dma = some ⟨.dirIn, .ep3, .epIn3, 0#16, 1#16⟩ := ⟨⟨rfl, by decide, by decide⟩, by decide, by decide, rfl⟩

theorem witness_ResponsePacketsKeepByteOrder :
    ∃ t, State.reset.dma = none ∧ (List.replicate 65 0#8 : List Byte).length ≤ 256 ∧
      exec (.sendUsbPacket .ep0 (List.replicate 65 0#8)) State.reset = .next t := ⟨_, rfl, by decide, rfl⟩

theorem witness_DmaStartChecksChannelAndBounds :
    ∃ ref cnt, ref = inFlight.reg.epInPtr.get .ep3 ∧ cnt = inFlight.reg.epInMaxCnt.get .ep3 := ⟨_, _, rfl, rfl⟩

theorem witness_UnguardedStartsProgramAndStart :
    (State.reset.dma = none ∧ (0#16).toNat + (16#16).toNat ≤ capacity .epIn1) ∧
      ¬ (1#16).toNat + (16#16).toNat ≤ capacity .epIn1 ∧ inFlight.dma = some ⟨.dirIn, .ep3, .epIn3, 0#16, 1#16⟩ := ⟨⟨rfl, by decide⟩, by decide, rfl⟩

theorem witness_GuardIsTestAndSet :
    (AtPhase State.reset .idle ∧ State.reset.ctx.dmaBusy = false) ∧
      AtPhase (State.reset.setDmaBusy true) .idle ∧ (State.reset.setDmaBusy true).ctx.dmaBusy = true := ⟨⟨⟨rfl, rfl⟩, rfl⟩, ⟨rfl, rfl⟩, rfl⟩

/-- The received size 64 on endpoint 2. -/
def received : State := State.reset.setReg { Regs.atReset with sizeEpOut := ⟨0#8, 0#8, 64#8, 0#8⟩ }

theorem witness_BulkOutDoneStartsReceivedSize :
    (64#16).toNat = (received.reg.sizeEpOut.get .ep2).toNat ∧ (received.setDmaBusy true).ctx.dmaBusy = true ∧
      (received.ctx.dmaBusy = false ∧ received.dma = none ∧ (0#16).toNat + (64#16).toNat ≤ capacity (outBuf .ep2)) ∧
      ((received.setDma inFlight.dma).ctx.dmaBusy = false ∧
        (received.setDma inFlight.dma).dma = some ⟨.dirIn, .ep3, .epIn3, 0#16, 1#16⟩) := ⟨rfl, rfl, ⟨rfl, rfl, by decide⟩, rfl, rfl⟩

theorem witness_BulkOutDeliverPushesInOrder :
    [0x41#8, 0x42#8, 0x43#8].length = ((bulkIn.setDma inFlight.dma).reg.epOutAmount.get .ep2).toNat ∧
      Holds (bulkIn.setDma inFlight.dma).mem (outBuf .ep2) 0 [0x41#8, 0x42#8, 0x43#8] ∧
      (∀ j, j < 3 → ¬ RacedRead (bulkIn.setDma inFlight.dma) (outBuf .ep2) j) ∧
      RacedRead (bulkIn.setDma (some ⟨.dirOut, .ep2, .epOut2, 0#16, 64#16⟩)) (outBuf .ep2) 2 := by
  refine ⟨rfl, fun j hj => ?_, ?_, ⟨_, rfl, rfl, rfl, by decide, by decide⟩⟩
  · have h : ∀ j : Fin 3, bulkIn.mem.load (outBuf .ep2) (0 + j.val) = [0x41#8, 0x42#8, 0x43#8][j.val]? := by decide
    exact h ⟨j, hj⟩
  · rintro j - ⟨x, hx, hd, -⟩
    cases hx
    cases hd

/-- An OUT transfer of 64 bytes in flight on endpoint 2, with a packet of one byte held. -/
def outInFlight : State :=
  let s := State.reset.setDma (some ⟨.dirOut, .ep2, .epOut2, 0#16, 64#16⟩)
  s.setBus { s.bus with outData := s.bus.outData.set .ep2 (some [0x41#8]) }

theorem witness_DmaCompleteMovesThePacket :
    State.reset.dma = none ∧
      ((inFlight.setMem [(480, 0x68#8)]).dma = some ⟨.dirIn, .ep3, .epIn3, 0#16, 1#16⟩ ∧
        [0x68#8].length = (1#16).toNat ∧ Holds (inFlight.setMem [(480, 0x68#8)]).mem .epIn3 (0#16).toNat [0x68#8]) ∧
      ((outInFlight.setBus Bus.atReset).dma = some ⟨.dirOut, .ep2, .epOut2, 0#16, 64#16⟩ ∧
        (outInFlight.setBus Bus.atReset).bus.outData.get .ep2 = none) ∧
      (outInFlight.dma = some ⟨.dirOut, .ep2, .epOut2, 0#16, 64#16⟩ ∧ outInFlight.bus.outData.get .ep2 = some [0x41#8] ∧
        (0#16).toNat + (64#16).toNat ≤ capacity .epOut2) := by
  refine ⟨rfl, ⟨rfl, rfl, fun j hj => ?_⟩, ⟨rfl, rfl⟩, rfl, rfl, by decide⟩
  have h : j = 0 := by simpa using hj
  subst h
  rfl

theorem witness_UnwrittenByteIsRecorded :
    inFlight.dma = some ⟨.dirIn, .ep3, .epIn3, 0#16, 1#16⟩ ∧ 0 < (1#16).toNat ∧
      inFlight.mem.load .epIn3 ((0#16).toNat + 0) = none := ⟨rfl, by decide, rfl⟩

theorem witness_BufferReuseIsARace :
    ∃ x : Transfer, (State.reset.setDma (some ⟨.dirIn, .ep0, .ep0In, 64#16, 11#16⟩)).dma = some x ∧ x.buf = .ep0In ∧
      (List.replicate 75 0#8 : List Byte).length ≤ 256 ∧ 74 < (List.replicate 75 0#8 : List Byte).length ∧
      x.off.toNat ≤ 74 ∧ 74 < x.off.toNat + x.cnt.toNat := ⟨_, rfl, rfl, by decide, by decide, by decide, by decide⟩

theorem witness_ConfigureEnablesEightCauses :
    CallMayRun State.reset .configure := ⟨rfl, rfl, .inl rfl⟩

theorem witness_WriteByteSendsOnePacket :
    (CallMayRun State.reset (.writeByte 0x68#8) ∧ State.reset.ctx.line.lineState = 0#2) ∧
      (CallMayRun ((lines 0b01#2).setDmaBusy true) (.writeByte 0x68#8) ∧ ((lines 0b01#2).setDmaBusy true).ctx.line.lineState ≠ 0#2 ∧
        ((lines 0b01#2).setDmaBusy true).ctx.dmaBusy = true) ∧
      (AtPhase (((lines 0b01#2).setDmaBusy true).setFg (.spin 0x68#8)) .idle ∧
        (((lines 0b01#2).setDmaBusy true).setFg (.spin 0x68#8)).ctx.fg = .spin 0x68#8) ∧
      (CallMayRun (lines 0b10#2) (.writeByte 0x68#8) ∧ (lines 0b10#2).ctx.line.lineState ≠ 0#2 ∧
        (lines 0b10#2).ctx.dmaBusy = false ∧ (lines 0b10#2).dma = none) ∧
      (AtPhase ((lines 0b10#2).setFg (.spin 0x68#8)) .idle ∧ ((lines 0b10#2).setFg (.spin 0x68#8)).ctx.fg = .spin 0x68#8 ∧
        ((lines 0b10#2).setFg (.spin 0x68#8)).ctx.dmaBusy = false) := ⟨⟨⟨rfl, rfl, .inl rfl⟩, rfl⟩, ⟨⟨rfl, rfl, .inl rfl⟩, by decide, rfl⟩, ⟨⟨rfl, rfl⟩, rfl⟩,
    ⟨⟨rfl, rfl, .inl rfl⟩, by decide, rfl, rfl⟩, ⟨rfl, rfl⟩, rfl, rfl⟩

theorem witness_WriteByteSendsOnePacket_busy :
    CallMayRun ((lines 0b10#2).setDma inFlight.dma) (.writeByte 0x68#8) ∧ ((lines 0b10#2).setDma inFlight.dma).ctx.dmaBusy = false ∧
      ((lines 0b10#2).setDma inFlight.dma).dma = some ⟨.dirIn, .ep3, .epIn3, 0#16, 1#16⟩ := ⟨⟨rfl, rfl, .inl rfl⟩, rfl, rfl⟩

theorem witness_DtrAndRtsReadLineState :
    CallMayRun (lines 0b01#2) .dtr ∧ CallMayRun ((lines 0b01#2).setFg (.call .rts)) .rts := ⟨⟨rfl, rfl, .inl rfl⟩, rfl, rfl, .inr rfl⟩

theorem witness_HostReadyAndSetup :
    (sched [.host .ready]).sched = .host .ready :: [] ∧
      (sched [.host (.setup 0x80#8 6#8 0#8 1#8 0#8 0#8 0x12#8 0#8)]).sched
        = .host (.setup 0x80#8 6#8 0#8 1#8 0#8 0#8 0x12#8 0#8) :: [] := ⟨rfl, rfl⟩

/-- A one-byte packet loaded on an endpoint that is enabled, the pullup on. -/
def loaded (n : Ep) : State :=
  let s := sched [.host (.takeIn n)]
  (s.setBus { s.bus with inLoaded := s.bus.inLoaded.set n (some [0x68#8]) }).setReg
    { Regs.atReset with epInEn := 0b1111#4, usbPullup := true }

theorem witness_HostInAndOut :
    (∀ n, (loaded n).sched = .host (.takeIn n) :: [] ∧ (loaded n).bus.inLoaded.get n = some [0x68#8] ∧
        (loaded n).reg.epInEn.getLsbD (epNum n) = true ∧ (loaded n).reg.usbPullup = true) ∧
      (sched [.host (.takeIn .ep3)]).bus.inLoaded.get .ep3 = none ∧
      (sched [.host (.sendOut .ep0 [])]).sched = .host (.sendOut .ep0 []) :: [] ∧
      Ep.ep2 ≠ .ep0 ∧ (sched [.host (.sendOut .ep2 [0x41#8])]).sched = .host (.sendOut .ep2 [0x41#8]) :: [] := by
  refine ⟨fun n => ?_, rfl, rfl, by decide, rfl⟩
  cases n <;> exact ⟨rfl, rfl, rfl, rfl⟩

end Sys2Proof.Tests
end

/-! SUPPORT and PROOFS of 00_scope.md: what a turn of the schedule runs, and that every operation answers a next state with
the schedule as it was. -/

namespace Sys2Proof.Machine

/-! ## A step, turn by turn (R10, log 1) -/

/-- A step takes the first turn, with the schedule already past it. -/
theorem step_of_sched_cons {s : State} {t : Turn} {rest : List Turn} (h : s.sched = t :: rest) :
    step s = takeTurn { s with sched := rest } t := by
  simp only [step, h]

/-- A record turn runs its record. -/
@[simp] theorem takeTurn_record (s : State) (fmt : Format) (bytes : List Byte) :
    takeTurn s (.record fmt bytes) = runRecord s fmt bytes := rfl

/-- A record that decodes to an operation runs it. -/
theorem runRecord_of_decode_ok {s : State} {fmt : Format} {bytes : List Byte} {i : Instr} (h : decode fmt bytes = .ok i) :
    runRecord s fmt bytes = exec i s := by
  simp only [runRecord, h]

/-! ## The schedule through a flow

`Flow.andThen` keeps the schedule when both of its parts do, whichever way the first part ends. -/

@[simp] theorem Flow.returning_sched (f : Flow Bool) : f.returning.sched = f.state.sched := by cases f <;> rfl

theorem Flow.andThen_sched {α β : Type} {f : Flow α} {k : State → α → Flow β}
    (hk : ∀ t a, (k t a).state.sched = t.sched) : (f.andThen k).state.sched = f.state.sched := by
  cases f with
  | go t a => exact hk t a
  | halt t => rfl

@[simp] theorem Flow.thenPhase_sched (f : Flow Unit) (p : IrqPhase) : (f.thenPhase p).sched = f.state.sched :=
  Flow.andThen_sched fun _ _ => rfl

section Schedule

variable (s : State)

/-! ## The schedule through the shared operations -/

@[simp] theorem sendControl_sched (data : List Byte) : (sendControl s data).sched = s.sched := by
  unfold sendControl
  split
  · rfl
  · split <;> simp

@[simp] theorem sendData_sched (n : Ep) (data : List Byte) : (sendData s n data).sched = s.sched := by
  unfold sendData
  split <;> simp

@[simp] theorem sendUsbPacket_sched (n : Ep) (data : List Byte) : (sendUsbPacket s n data).sched = s.sched := by
  unfold sendUsbPacket
  split <;> simp

@[simp] theorem sendContinuation_sched (off rem : Half) : (sendContinuation s off rem).sched = s.sched := by
  simp [sendContinuation]

@[simp] theorem startEp0OutRead_sched : (startEp0OutRead s).sched = s.sched := by
  simp [startEp0OutRead]

@[simp] theorem enterCriticalSectionIrq_sched : (enterCriticalSectionIrq s).state.sched = s.sched := by
  obtain ⟨-, h⟩ | ⟨-, h⟩ := enterCriticalSectionIrq_cases s <;> rw [h] <;> rfl

@[simp] theorem bulkOutDone_sched (n : Ep) : (bulkOutDone s n).state.sched = s.sched := by
  unfold bulkOutDone
  rw [Flow.andThen_sched fun t _ => by simp, enterCriticalSectionIrq_sched]

@[simp] theorem bulkOutDeliver_sched (n : Ep) : (bulkOutDeliver s n).sched = s.sched := by
  simp [bulkOutDeliver]

@[simp] theorem dmaComplete_sched : (dmaComplete s).sched = s.sched := by
  unfold dmaComplete
  split
  · rfl
  · split
    · simp [completeIn]
    · split <;> simp [completeOut]

@[simp] theorem checkShouldReset_sched : (checkShouldReset s).state.sched = s.sched := by
  obtain h | h := checkShouldReset_cases s <;> rw [h] <;> rfl

/-! ## The schedule through the requests -/

@[simp] theorem getStatus_sched (sp : SetupPacket) : (getStatus s sp).state.sched = s.sched := by
  simp [getStatus]

@[simp] theorem clearFeature_sched (sp : SetupPacket) : (clearFeature s sp).state.sched = s.sched := rfl

@[simp] theorem setFeature_sched (sp : SetupPacket) : (setFeature s sp).state.sched = s.sched := rfl

@[simp] theorem respond_sched (sp : SetupPacket) (d : List Byte) : (respond s sp d).state.sched = s.sched := by
  simp [respond]

@[simp] theorem getDescriptor_sched (sp : SetupPacket) : (getDescriptor s sp).state.sched = s.sched := by
  unfold getDescriptor
  split <;> simp

@[simp] theorem getConfiguration_sched : (getConfiguration s).state.sched = s.sched := by
  simp [getConfiguration]

@[simp] theorem initEndpoint_sched (n : Ep) : (initEndpoint s n).sched = s.sched := by
  unfold initEndpoint
  split <;> simp

@[simp] theorem setConfiguration_sched (sp : SetupPacket) : (setConfiguration s sp).state.sched = s.sched := by
  unfold setConfiguration
  split <;> simp

@[simp] theorem getInterface_sched : (getInterface s).state.sched = s.sched := by
  simp [getInterface]

@[simp] theorem setInterface_sched (sp : SetupPacket) : (setInterface s sp).state.sched = s.sched := rfl

@[simp] theorem standardRequest_sched (sp : SetupPacket) : (standardRequest s sp).state.sched = s.sched := by
  unfold standardRequest
  repeat' split
  all_goals simp

@[simp] theorem setLineCoding_sched : (setLineCoding s).state.sched = s.sched := rfl

@[simp] theorem getLineCoding_sched : (getLineCoding s).state.sched = s.sched := by
  simp [getLineCoding]

@[simp] theorem setControlLineState_sched (sp : SetupPacket) : (setControlLineState s sp).state.sched = s.sched := by
  unfold setControlLineState
  rw [Flow.andThen_sched fun _ _ => rfl, checkShouldReset_sched, State.setLine_sched]

@[simp] theorem sendBreak_sched : (sendBreak s).state.sched = s.sched := rfl

@[simp] theorem classRequest_sched (sp : SetupPacket) : (classRequest s sp).state.sched = s.sched := by
  unfold classRequest
  repeat' split
  all_goals simp

@[simp] theorem lineCodingComplete_sched : (lineCodingComplete s).state.sched = s.sched := by
  unfold lineCodingComplete
  rw [Flow.andThen_sched fun _ _ => rfl]
  split <;> simp

@[simp] theorem dispatchSetup_sched (sp : SetupPacket) : (dispatchSetup s sp).state.sched = s.sched := by
  unfold dispatchSetup
  repeat' split
  all_goals simp

/-! ## The schedule through the phases of the dispatcher -/

@[simp] theorem busReady_sched : (busReady s).sched = s.sched := rfl

@[simp] theorem phaseA_sched : (phaseA s).sched = s.sched := by
  unfold phaseA
  split
  · simp only
    split <;> simp
  · rfl

@[simp] theorem dataDone_sched : (dataDone s).sched = s.sched := by
  unfold dataDone
  split
  · simp
  · split <;> simp

@[simp] theorem phaseB_sched : (phaseB s).sched = s.sched := by
  unfold phaseB
  split <;> simp

@[simp] theorem handleSetup_sched : (handleSetup s).state.sched = s.sched := by
  unfold handleSetup
  rw [Flow.andThen_sched fun t ok => by cases ok <;> rfl]
  simp

@[simp] theorem phaseC_sched : (phaseC s).state.sched = s.sched := by
  unfold phaseC
  split <;> simp

@[simp] theorem latchEpData_sched : (latchEpData s).sched = s.sched := by
  unfold latchEpData
  split <;> rfl

@[simp] theorem handleEpData_sched (n : Ep) : (handleEpData s n).state.sched = s.sched := by
  unfold handleEpData
  rw [Flow.andThen_sched fun t _ => ?_]
  · split <;> simp
  · rw [Flow.state_go]
    split <;> rfl

@[simp] theorem phaseE_sched (n : Ep) : (phaseE s n).state.sched = s.sched := by
  unfold phaseE
  split
  · rw [Flow.andThen_sched fun t _ => ?_]
    · split <;> simp
    · rw [Flow.state_go]
      split <;> simp
  · rfl

/-! ## The schedule through the facade calls -/

@[simp] theorem acquireAndSend_sched (b : Byte) : (acquireAndSend s b).sched = s.sched := by
  simp [acquireAndSend]

@[simp] theorem callEnds_sched : (callEnds s).sched = s.sched := rfl

@[simp] theorem writeByte_sched (b : Byte) : (writeByte s b).sched = s.sched := by
  unfold writeByte
  split
  · rfl
  · split <;> simp

@[simp] theorem spinStep_sched (b : Byte) : (spinStep s b).sched = s.sched := by
  unfold spinStep
  split <;> simp

end Schedule

/-! ## Every operation answers a next state -/

/-- The result of an operation run in `s` is a next state with the schedule as it was. -/
def AnswersNext (s : State) (r : Result) : Prop := ∃ t, r = .next t ∧ t.sched = s.sched

theorem AnswersNext.next {s t : State} (h : t.sched = s.sched) : AnswersNext s (.next t) := ⟨t, rfl, h⟩

/-- A request answers with the value it returns (log 7). -/
theorem AnswersNext.returning {s : State} {f : Flow Bool} (h : f.state.sched = s.sched) :
    AnswersNext s (.next f.returning) := .next ((Flow.returning_sched f).trans h)

/-- An operation that is not enabled answers the state it was given (log 2). -/
theorem AnswersNext.guarded {s t : State} {c : Prop} [Decidable c] (h : t.sched = s.sched) :
    AnswersNext s (if c then .next t else .next s) := by
  split
  · exact .next h
  · exact .next rfl

/-- EV_EPDATA answers in each of its three phases, and in any other (R118). -/
theorem execEvEpData_answersNext (s : State) : AnswersNext s (execEvEpData s) := by
  unfold execEvEpData
  split
  · exact .next (by simp)
  · split
    · exact .next (by simp)
    · refine .guarded ?_
      rw [Flow.thenPhase_sched, Flow.andThen_sched fun _ _ => rfl, handleEpData_sched]

/-- WRITE_BYTE_SPIN answers with a spin in progress and without one (R247). -/
theorem execWriteByteSpin_answersNext (s : State) : AnswersNext s (execWriteByteSpin s) := by
  unfold execWriteByteSpin
  split
  · exact .guarded (spinStep_sched s _)
  · exact .next rfl
  · exact .next rfl

/-- EV_ENDEPOUT3 answers at phase E(3), which ends in the interrupt return, and at any other phase (R119, R120). -/
theorem execEvEndEpOut3_answersNext (s : State) : AnswersNext s (execEvEndEpOut3 s) := by
  refine .guarded ?_
  rw [Flow.andThen_sched fun _ _ => rfl, phaseE_sched]

/-- ENTER_CS answers when it waits, when it takes the guard, and when it is not enabled (R186). -/
theorem execEnterCs_answersNext (s : State) : AnswersNext s (execEnterCs s) := by
  refine .guarded ?_
  split <;> rfl

/-- Row by row: the result is a next state, and the row's operation keeps the schedule. -/
theorem exec_answersNext (i : Instr) (s : State) : AnswersNext s (exec i s) :=
  match i with
  | .getStatus sp => .returning (getStatus_sched s sp)
  | .clearFeature sp => .returning (clearFeature_sched s sp)
  | .setFeature sp => .returning (setFeature_sched s sp)
  | .setAddress _ => .next rfl
  | .getDescriptor sp => .returning (getDescriptor_sched s sp)
  | .setDescriptor _ => .next rfl
  | .getConfiguration _ => .returning (getConfiguration_sched s)
  | .setConfiguration sp => .returning (setConfiguration_sched s sp)
  | .getInterface _ => .returning (getInterface_sched s)
  | .setInterface sp => .returning (setInterface_sched s sp)
  | .stdOther _ => .next rfl
  | .setLineCoding _ => .returning (setLineCoding_sched s)
  | .getLineCoding _ => .returning (getLineCoding_sched s)
  | .setControlLineState sp => .returning (setControlLineState_sched s sp)
  | .sendBreak _ => .returning (sendBreak_sched s)
  | .classOther _ => .next rfl
  | .classOtherIf _ => .next rfl
  | .vendorReserved _ => .next rfl
  | .irqInvoke => .guarded rfl
  | .evReady => .guarded (phaseA_sched s)
  | .evEp0DataDone => .guarded (phaseB_sched s)
  | .evEp0Setup => .guarded (by simp)
  | .evEpData => execEvEpData_answersNext s
  | .evEndEpOut0 => .guarded (by simp)
  | .evEndEpOut1 => .guarded (by simp)
  | .evEndEpOut2 => .guarded (by simp)
  | .evEndEpOut3 => execEvEndEpOut3_answersNext s
  | .configure => .guarded rfl
  | .writeByte b => .guarded (writeByte_sched s b)
  | .writeByteSpin => execWriteByteSpin_answersNext s
  | .dtr => .guarded rfl
  | .rts => .guarded rfl
  | .decodeSetup => .next rfl
  | .dispatchSetup sp => .returning (dispatchSetup_sched s sp)
  | .stallEp0 => .next rfl
  | .statusStage => .next rfl
  | .initEndpoint n => .next (initEndpoint_sched s n)
  | .lineCodingComplete => .next (lineCodingComplete_sched s)
  | .checkShouldReset => .next (checkShouldReset_sched s)
  | .getDescriptorSelect sp => .returning (getDescriptor_sched s sp)
  | .respond sp d => .returning (respond_sched s sp d)
  | .enterCs => execEnterCs_answersNext s
  | .enterCsIrq => .next (enterCriticalSectionIrq_sched s)
  | .exitCs => .next rfl
  | .sendViaEpIn n buf off cnt => .next (sendViaEpIn_sched s n ⟨buf, off⟩ cnt)
  | .sendUsbPacket n data => .next (sendUsbPacket_sched s n data)
  | .sendContinuation off rem => .next (sendContinuation_sched s off rem)
  | .dmaStart dir n => .next (dmaStart_sched s dir n)
  | .startEp0OutRead => .next (startEp0OutRead_sched s)
  | .bulkOutDone n => .next (bulkOutDone_sched s n)
  | .bulkOutDeliver n => .next (bulkOutDeliver_sched s n)
  | .dmaComplete => .next (dmaComplete_sched s)
  | .ringPush _ => .next rfl

end Sys2Proof.Machine

namespace Sys2Proof.Claims

open Sys2Proof.Machine

/-- Settles O6: the step takes the record turn, and the record decodes to the operation (R10, R97, log 1). -/
theorem stepRunsRecordedOperation : Obligations.StepRunsRecordedOperation := by
  unfold Obligations.StepRunsRecordedOperation
  intro s fmt bytes rest i hsched hdecode
  rw [step_of_sched_cons hsched, takeTurn_record, runRecord_of_decode_ok hdecode]

/-- Settles O11, row by row of the table, from what each shared operation does to the schedule (R12, R42, R97). -/
theorem everyOperationAnswersNext : Obligations.EveryOperationAnswersNext := by
  unfold Obligations.EveryOperationAnswersNext
  exact exec_answersNext

end Sys2Proof.Claims

/-! SUPPORT and PROOFS of 10_state.md: every operation is a chain of single writes, each of which needs a power that few
operations have; what the writes keep gives the safety statements and the invariant. -/

namespace Sys2Proof.Machine

/-! ## The invariant, field by field

`Inv` without its one clause that ties two fields together (`SnapInPhaseD`): a write of one field keeps `Sound` alone. -/

/-- The registers' part of `Inv`: the reserved status bits, and the counts of at most 64 bytes. -/
structure RegsSound (r : Regs) : Prop where
  status : r.epDataStatus &&& statusReserved = 0#32
  sizeShort : ∀ n, (r.sizeEpOut.get n).toNat ≤ 64
  amountShort : ∀ n, (r.epOutAmount.get n).toNat ≤ 64

/-- The bus side's part of `Inv`: a held OUT packet is at most 64 bytes. -/
def BusSound (b : Bus) : Prop := ∀ n d, b.outData.get n = some d → d.length ≤ 64

/-- A transfer stays inside its buffer (R61, R192). -/
def Transfer.inBounds (x : Transfer) : Prop := x.off.toNat + x.cnt.toNat ≤ capacity x.buf

/-- `Inv` without `snapPhase`. -/
structure Sound (s : State) : Prop where
  memWf : s.mem.wf = true
  table : s.ctx.epTable = epTableConst
  regs : RegsSound s.reg
  snap : s.epDataSnap &&& statusReserved = 0#32
  dma : ∀ x, s.dma = some x → x.inBounds
  bus : BusSound s.bus
  faultSet : s.faults.Nodup

/-- The clause `snapPhase` of `Inv`. -/
def SnapInPhaseD (s : State) : Prop := s.ctx.irqPhase ≠ .d2 → s.ctx.irqPhase ≠ .d3 → s.epDataSnap = 0#32

theorem inv_iff {s : State} : Inv s ↔ Sound s ∧ SnapInPhaseD s := by
  constructor
  · intro h
    exact ⟨⟨h.memWf, h.table, ⟨h.status, h.sizeShort, h.amountShort⟩, h.snap, h.dmaInBounds, h.outShort, h.faultSet⟩,
      h.snapPhase⟩
  · rintro ⟨h, hp⟩
    exact ⟨h.memWf, h.table, h.regs.status, h.snap, hp, h.dma, h.bus, h.regs.sizeShort, h.regs.amountShort, h.faultSet⟩

/-! ## Single writes and the powers they need -/

/-- What an operation must be entitled to before it writes a field few operations write. -/
inductive Power where
  | line
  | dev
  | takeGuard
  | freeGuard
  | endDma
  | phase
  deriving DecidableEq

/-- One write of an operation that has the powers `w`. A write of the registers or the bus side keeps them sound, a DMA
start finds the channel free and a region inside its buffer, and the snapshot of phase D takes EPDATASTATUS or zero. -/
inductive Move (w : List Power) (s : State) : State → Prop where
  | setLine (l : LineInfo) (h : .line ∈ w) : Move w s (s.setLine l)
  | setDev (d : DeviceState) (h : .dev ∈ w) : Move w s (s.setDev d)
  | takeGuard (h : .takeGuard ∈ w) : Move w s (s.setDmaBusy true)
  | freeGuard (h : .freeGuard ∈ w) : Move w s (s.setDmaBusy false)
  | setPhase (p : IrqPhase) (h : .phase ∈ w) : Move w s (s.setPhase p)
  | setSnap (v : BitVec 32) (h : .phase ∈ w) (hv : v = 0#32 ∨ v = s.reg.epDataStatus) : Move w s (s.setSnap v)
  | setPending (p : Option Pending) : Move w s (s.setPending p)
  | setLineCodingPending (b : Bool) : Move w s (s.setLineCodingPending b)
  | setFg (p : FgPos) : Move w s (s.setFg p)
  | setHandlerInstalled (b : Bool) : Move w s (s.setHandlerInstalled b)
  | setReg (r : Regs) (h : Sound s → RegsSound r) : Move w s (s.setReg r)
  | setBus (b : Bus) (h : Sound s → BusSound b) : Move w s (s.setBus b)
  | store (buf : BufId) (off : Nat) (data : List Byte) : Move w s (s.setMem (s.mem.storeAll buf off data))
  | raise (r : FaultRecord) : Move w s (s.raise r)
  | startDma (x : Transfer) (h : s.dma = none) (hx : x.inBounds) : Move w s (s.setDma (some x))
  | endDma (h : .endDma ∈ w) : Move w s (s.setDma none)
  | emit (e : HistoryEvent) : Move w s (s.emit e)
  | handOver (b : Byte) : Move w s (s.handOver b)
  | nextFree : Move w s s.nextFree
  | setHang (h : Option HangKind) : Move w s (s.setHang h)
  | setRet (v : RetVal) : Move w s (s.setRet v)

/-- A chain of such writes. -/
abbrev Moves (w : List Power) : State → State → Prop := Relation.ReflTransGen (Move w)

/-! ## What one write keeps -/

section

variable {w : List Power} {s t : State}

theorem Move.mem_faults {r : FaultRecord} (h : Move w s t) (hr : r ∈ s.faults) : r ∈ t.faults := by
  cases h with
  | raise q => exact (State.mem_raise_faults s).mpr (.inl hr)
  | _ => exact hr

/-- A start needs a free channel, and only DMA_COMPLETE may free it. -/
theorem Move.dma_eq {x : Transfer} (h : Move w s t) (hw : .endDma ∉ w) (hx : s.dma = some x) : t.dma = some x := by
  cases h with
  | startDma y hn _ => exact absurd (hn.symm.trans hx) (by simp)
  | endDma he => exact absurd he hw
  | _ => exact hx

theorem Move.line_eq (h : Move w s t) (hw : .line ∉ w) : t.ctx.line = s.ctx.line := by
  cases h with
  | setLine l hl => exact absurd hl hw
  | _ => rfl

theorem Move.dev_eq (h : Move w s t) (hw : .dev ∉ w) : t.ctx.dev = s.ctx.dev := by
  cases h with
  | setDev d hd => exact absurd hd hw
  | _ => rfl

theorem Move.guard_stays_free (h : Move w s t) (hw : .takeGuard ∉ w) (hs : s.ctx.dmaBusy = false) :
    t.ctx.dmaBusy = false := by
  cases h with
  | takeGuard ht => exact absurd ht hw
  | freeGuard _ => rfl
  | _ => exact hs

theorem Move.guard_stays_held (h : Move w s t) (hw : .freeGuard ∉ w) (hs : s.ctx.dmaBusy = true) :
    t.ctx.dmaBusy = true := by
  cases h with
  | takeGuard _ => rfl
  | freeGuard hf => exact absurd hf hw
  | _ => exact hs

theorem Move.phase_eq (h : Move w s t) (hw : .phase ∉ w) :
    t.ctx.irqPhase = s.ctx.irqPhase ∧ t.epDataSnap = s.epDataSnap := by
  cases h with
  | setPhase p hp => exact absurd hp hw
  | setSnap v hp _ => exact absurd hp hw
  | _ => exact ⟨rfl, rfl⟩

/-- The faults stay a set when one is raised (R42). -/
theorem State.raise_faults_nodup (r : FaultRecord) (h : s.faults.Nodup) : (s.raise r).faults.Nodup := by
  rw [State.raise_faults]
  split
  · exact h
  · rename_i hr
    exact h.append (List.nodup_singleton r) (by simpa using hr)

theorem Move.sound (h : Move w s t) (hs : Sound s) : Sound t := by
  cases h with
  | setSnap v _ hv =>
    refine { hs with snap := ?_ }
    obtain rfl | rfl := hv
    · exact BitVec.zero_and
    · exact hs.regs.status
  | setReg r hr => exact { hs with regs := hr hs }
  | setBus b hb => exact { hs with bus := hb hs }
  | store buf off data => exact { hs with memWf := Memory.wf_storeAll hs.memWf buf off data }
  | raise r => exact { hs with faultSet := State.raise_faults_nodup r hs.faultSet }
  | startDma x _ hx => exact { hs with dma := fun y hy => Option.some.inj hy ▸ hx }
  | endDma _ => exact { hs with dma := fun y hy => absurd hy (by simp) }
  | _ => exact { hs with }

/-! ## What a chain keeps -/

/-- A property that every single write keeps is kept by a chain. -/
theorem Moves.keeps {P : State → Prop} (hP : ∀ {a b}, Move w a b → P a → P b) (h : Moves w s t) (hs : P s) : P t := by
  induction h with
  | refl => exact hs
  | tail _ hm ih => exact hP hm ih

theorem Moves.mem_faults {r : FaultRecord} (h : Moves w s t) (hr : r ∈ s.faults) : r ∈ t.faults :=
  h.keeps (P := fun u => r ∈ u.faults) Move.mem_faults hr

theorem Moves.dma_eq {x : Transfer} (h : Moves w s t) (hw : .endDma ∉ w) (hx : s.dma = some x) : t.dma = some x :=
  h.keeps (P := fun u => u.dma = some x) (fun hm => hm.dma_eq hw) hx

theorem Moves.line_eq (h : Moves w s t) (hw : .line ∉ w) : t.ctx.line = s.ctx.line :=
  h.keeps (P := fun u => u.ctx.line = s.ctx.line) (fun hm => (hm.line_eq hw).trans) rfl

theorem Moves.dev_eq (h : Moves w s t) (hw : .dev ∉ w) : t.ctx.dev = s.ctx.dev :=
  h.keeps (P := fun u => u.ctx.dev = s.ctx.dev) (fun hm => (hm.dev_eq hw).trans) rfl

theorem Moves.guard_stays_free (h : Moves w s t) (hw : .takeGuard ∉ w) (hs : s.ctx.dmaBusy = false) :
    t.ctx.dmaBusy = false :=
  h.keeps (P := fun u => u.ctx.dmaBusy = false) (fun hm => hm.guard_stays_free hw) hs

theorem Moves.guard_stays_held (h : Moves w s t) (hw : .freeGuard ∉ w) (hs : s.ctx.dmaBusy = true) :
    t.ctx.dmaBusy = true :=
  h.keeps (P := fun u => u.ctx.dmaBusy = true) (fun hm => hm.guard_stays_held hw) hs

theorem Moves.phase_eq (h : Moves w s t) (hw : .phase ∉ w) :
    t.ctx.irqPhase = s.ctx.irqPhase ∧ t.epDataSnap = s.epDataSnap :=
  h.keeps (P := fun u => u.ctx.irqPhase = s.ctx.irqPhase ∧ u.epDataSnap = s.epDataSnap)
    (fun hm ha => ⟨(hm.phase_eq hw).1.trans ha.1, (hm.phase_eq hw).2.trans ha.2⟩) ⟨rfl, rfl⟩

theorem Moves.sound (h : Moves w s t) (hs : Sound s) : Sound t := h.keeps Move.sound hs

end

/-! ## Writes of an array over the endpoints -/

/-- What holds of every entry holds after a write of an entry of which it holds. -/
theorem PerEp.forall_get_set {α : Type} {P : α → Prop} {p : PerEp α} {n : Ep} {a : α} (h : ∀ m, P (p.get m)) (ha : P a)
    (m : Ep) : P ((p.set n a).get m) := by
  by_cases hm : m = n
  · rwa [hm, PerEp.get_set_same]
  · rw [PerEp.get_set_other _ _ hm]
    exact h m

/-- An endpoint may be given a packet of at most 64 bytes, or none. -/
theorem BusSound.setOutData {b : Bus} {n : Ep} {o : Option (List Byte)} (h : BusSound b)
    (ho : ∀ d, o = some d → d.length ≤ 64) : BusSound { b with outData := b.outData.set n o } :=
  PerEp.forall_get_set (P := fun o : Option (List Byte) => ∀ d, o = some d → d.length ≤ 64) h ho

/-! ## The shared operations as chains of writes -/

section

variable {w : List Power} {s t : State}

/-- Both branches of a decision are chains. -/
theorem Moves.ite {c : Prop} [Decidable c] {u : State} (ht : Moves w s t) (hu : Moves w s u) :
    Moves w s (if c then t else u) := by
  split
  · exact ht
  · exact hu

/-- A write of registers other than EPDATASTATUS, `SIZE_EPOUT` and `AMOUNT`. -/
theorem Move.setOtherRegs (r : Regs) (h₁ : r.epDataStatus = s.reg.epDataStatus := by rfl)
    (h₂ : r.sizeEpOut = s.reg.sizeEpOut := by rfl) (h₃ : r.epOutAmount = s.reg.epOutAmount := by rfl) :
    Move w s (s.setReg r) :=
  .setReg r fun hs => ⟨h₁ ▸ hs.regs.status, h₂ ▸ hs.regs.sizeShort, h₃ ▸ hs.regs.amountShort⟩

/-- A write of the bus side that leaves the held OUT packets. -/
theorem Move.setOtherBus (b : Bus) (h : b.outData = s.bus.outData := by rfl) : Move w s (s.setBus b) :=
  .setBus b fun hs n d hd => hs.bus n d (h ▸ hd)

end

section

variable (w : List Power) (s : State)

theorem Move.setEvent (f : EventFlag) (v : Bool) : Move w s (s.setEvent f v) := .setOtherRegs _

theorem raiseAll_moves (rs : List FaultRecord) : Moves w s (s.raiseAll rs) := by
  induction rs generalizing s with
  | nil => exact .refl
  | cons r rs ih => exact (ih (s.raise r)).head (.raise r)

theorem afterUninit_moves (rs : List FaultRecord) : Moves w s (afterUninit s rs) := by
  cases rs with
  | nil => exact .refl
  | cons r rs => exact ((raiseAll_moves w _ rs).head (.raise r)).tail .nextFree

theorem memRead_moves (buf : BufId) (off n : Nat) : Moves w s (memRead s buf off n).2 :=
  (raiseAll_moves w s _).trans (afterUninit_moves w _ _)

theorem memWrite_moves (buf : BufId) (off : Nat) (data : List Byte) : Moves w s (memWrite s buf off data) := by
  have h := Move.store (w := w) (s := s.raiseAll (raceFaults s.dma true buf off data.length)) buf off data
  rw [State.raiseAll_mem] at h
  exact (raiseAll_moves w s _).tail h

theorem triggerStatus_moves : Moves w s (triggerStatus s) := .single (.emit _)

theorem triggerStall_moves : Moves w s (triggerStall s) := .single (.emit _)

theorem triggerRcvOut_moves : Moves w s (triggerRcvOut s) := .single (.setOtherBus _)

theorem rearmOut_moves (n : Ep) : Moves w s (rearmOut s n) := .single (.setOtherBus _)

theorem programIn_moves (n : Ep) (ref : BufRef) (cnt : Half) : Moves w s (programIn s n ref cnt) :=
  .single (.setOtherRegs _)

theorem programOut_moves (n : Ep) (ref : BufRef) (cnt : Half) : Moves w s (programOut s n ref cnt) :=
  .single (.setOtherRegs _)

theorem dmaStart_moves (dir : Dir) (n : Ep) : Moves w s (dmaStart s dir n) := by
  obtain ⟨r, hr⟩ | ⟨hd, x, hx, hs⟩ := dmaStart_cases s dir n
  · exact hr ▸ .single (.raise r)
  · exact hs ▸ .single (.startDma x hd hx)

/-! ## The packet scheduler, the OUT path and the DMA engine's step -/

theorem sendViaEpIn_moves (n : Ep) (ref : BufRef) (cnt : Half) : Moves w s (sendViaEpIn s n ref cnt) :=
  (programIn_moves w s n ref cnt).trans (dmaStart_moves w _ _ _)

theorem sendControl_moves (data : List Byte) : Moves w s (sendControl s data) :=
  have sent (p : Option Pending) (cnt : Half) :
      Moves w s (sendViaEpIn ((memWrite s .ep0In 0 data).setPending p) .ep0 ⟨.ep0In, 0#16⟩ cnt) :=
    ((memWrite_moves w s _ _ _).tail (.setPending p)).trans (sendViaEpIn_moves w _ _ _ _)
  .ite (.single (.raise _)) (.ite (sent _ _) (sent _ _))

theorem sendData_moves (n : Ep) (data : List Byte) : Moves w s (sendData s n data) :=
  .ite (.single (.raise _)) ((memWrite_moves w s _ _ _).trans (sendViaEpIn_moves w _ _ _ _))

theorem sendUsbPacket_moves (n : Ep) (data : List Byte) : Moves w s (sendUsbPacket s n data) :=
  .ite (sendControl_moves w s data) (sendData_moves w s n data)

theorem sendContinuation_moves (off rem : Half) : Moves w s (sendContinuation s off rem) :=
  (sendViaEpIn_moves w s _ _ _).tail (.setPending _)

theorem startEp0OutRead_moves : Moves w s (startEp0OutRead s) :=
  (programOut_moves w s _ _ _).trans (dmaStart_moves w _ _ _)

theorem ringPush_moves (b : Byte) : Moves w s (ringPush s b) :=
  ((Relation.ReflTransGen.single (.emit _)).tail (.handOver b)).tail .nextFree

theorem pushAll_moves (bs : List Byte) : Moves w s (pushAll s bs) := by
  induction bs generalizing s with
  | nil => exact .refl
  | cons b bs ih => exact (ringPush_moves w s b).trans (ih _)

theorem bulkOutDeliver_moves (hw : .freeGuard ∈ w) (n : Ep) : Moves w s (bulkOutDeliver s n) :=
  (((memRead_moves w s _ _ _).trans (pushAll_moves w _ _)).trans (rearmOut_moves w _ n)).tail (.freeGuard hw)

theorem completeIn_moves (hw : .endDma ∈ w) (x : Transfer) : Moves w s (completeIn s x) :=
  .tail (.tail (.tail (afterUninit_moves w s _) (.setOtherBus _)) (.setEvent w _ _ _)) (.endDma hw)

/-- The held packet is at most 64 bytes, so the count reported is too; no packet is held afterwards (R196, R278). -/
theorem completeOut_moves (hw : .endDma ∈ w) {x : Transfer} {d : List Byte} (hd : s.bus.outData.get x.ep = some d) :
    Moves w s (completeOut s x d) := by
  have hlen (hs : BusSound s.bus) : (BitVec.ofNat 16 (min d.length x.cnt.toNat)).toNat ≤ 64 := by
    have hpacket : d.length ≤ 64 := hs x.ep d hd
    rw [BitVec.toNat_ofNat]
    omega
  refine .tail (.tail (.tail (.tail ?_ (.setReg _ fun hs => ?_)) (.setBus _ fun hs => ?_)) (.setEvent w _ _ _))
    (.endDma hw)
  · exact .single (.store _ _ _)
  · exact { hs.regs with
      amountShort := PerEp.forall_get_set (P := fun a : Half => a.toNat ≤ 64) hs.regs.amountShort (hlen hs.bus) }
  · exact hs.bus.setOutData (by simp)

theorem dmaComplete_moves (hw : .endDma ∈ w) : Moves w s (dmaComplete s) := by
  unfold dmaComplete
  split
  · exact .refl
  · split
    · exact completeIn_moves w s hw _
    · split
      · exact .refl
      · exact completeOut_moves w s hw ‹_›

end

/-! ## Flows: a chain of writes, unless the reset hook resets the system -/

/-- Where an operation ends: after a chain of its writes, or in a system reset. -/
def MovesOrResets (w : List Power) (s t : State) : Prop := Moves w s t ∨ ∃ u, t = systemReset u

/-- A flow from `s`: it goes on after a chain of writes; if it ends its step, that may be by a system reset. -/
def Flow.From {α : Type} (w : List Power) (s : State) : Flow α → Prop
  | .go t _ => Moves w s t
  | .halt t => MovesOrResets w s t

section

variable {w : List Power} {s t u : State} {α β : Type} {f : Flow α}

theorem MovesOrResets.after (h : MovesOrResets w t u) (hs : Moves w s t) : MovesOrResets w s u :=
  h.imp_left hs.trans

/-- A flow that goes on. -/
theorem Flow.From.go {a : α} (h : Moves w s t) : (Flow.go t a).From w s := h

/-- A flow that goes on with nothing written. -/
theorem Flow.From.refl {a : α} : (Flow.go s a).From w s := .go .refl

theorem Flow.From.after (h : f.From w t) (hs : Moves w s t) : f.From w s := by
  cases f with
  | go u a => exact hs.trans h
  | halt u => exact MovesOrResets.after h hs

theorem Flow.From.andThen {k : State → α → Flow β} (h : f.From w s) (hk : ∀ t a, (k t a).From w t) :
    (f.andThen k).From w s := by
  cases f with
  | go t a => exact (hk t a).after h
  | halt t => exact h

theorem Flow.From.ite {c : Prop} [Decidable c] {g : Flow α} (hf : f.From w s) (hg : g.From w s) :
    (if c then f else g).From w s := by
  split
  · exact hf
  · exact hg

theorem Flow.From.state (h : f.From w s) : MovesOrResets w s f.state := by
  cases f with
  | go t a => exact .inl h
  | halt t => exact h

theorem Flow.From.returning {f : Flow Bool} (h : f.From w s) : MovesOrResets w s f.returning := by
  cases f with
  | go t b => exact .inl (h.tail (.setRet _))
  | halt t => exact h

theorem Flow.From.thenPhase {f : Flow Unit} (h : f.From w s) (hw : .phase ∈ w) (p : IrqPhase) :
    MovesOrResets w s (f.thenPhase p) :=
  (h.andThen (k := fun t _ => .go (t.setPhase p) ()) fun _ _ => .single (.setPhase p hw)).state

end

section

variable (w : List Power) (s : State)

theorem enterCriticalSectionIrq_from (hw : .takeGuard ∈ w) : (enterCriticalSectionIrq s).From w s :=
  .ite (.inl (.single (.setHang _))) (.single (.takeGuard hw))

theorem bulkOutDone_from (hw : .takeGuard ∈ w) (n : Ep) : (bulkOutDone s n).From w s :=
  (enterCriticalSectionIrq_from w s hw).andThen fun t _ => (programOut_moves w t _ _ _).trans (dmaStart_moves w _ _ _)

theorem checkShouldReset_from : (checkShouldReset s).From w s := by
  obtain h | h := checkShouldReset_cases s
  · exact h ▸ (Relation.ReflTransGen.single (.emit _)).tail .nextFree
  · exact h ▸ .inr ⟨_, rfl⟩

/-! ## The requests -/

/-- A request whose whole effect is a control response (R190). -/
theorem response_from (data : List Byte) : (Flow.go (sendUsbPacket s .ep0 data) true).From w s :=
  sendUsbPacket_moves w s .ep0 data

theorem getDescriptor_from (sp : SetupPacket) : (getDescriptor s sp).From w s := by
  unfold getDescriptor
  split
  · exact response_from w s _
  · exact triggerStatus_moves w s
  · exact .refl

/-- A request that writes DeviceState and ends in its status stage. -/
theorem deviceWrite_from (hw : .dev ∈ w) (d : DeviceState) : (Flow.go (triggerStatus (s.setDev d)) true).From w s :=
  (triggerStatus_moves w _).head (.setDev d hw)

theorem initEndpoint_moves (n : Ep) : Moves w s (initEndpoint s n) := by
  unfold initEndpoint
  split
  · exact .single (.setOtherRegs _)
  · exact (rearmOut_moves w _ n).head (.setOtherRegs _)
  · exact .refl

theorem setConfiguration_from (hw : .dev ∈ w) (sp : SetupPacket) : (setConfiguration s sp).From w s :=
  have enabled := ((initEndpoint_moves w (triggerStatus s) .ep1).trans (initEndpoint_moves w _ .ep2)).trans
    (initEndpoint_moves w _ .ep3)
  .ite (((triggerStatus_moves w s).trans enabled).tail (.setDev _ hw)) .refl

/-- The rows of R140, in the order of their codes. -/
theorem standardRequest_from (hw : .dev ∈ w) (sp : SetupPacket) : (standardRequest s sp).From w s :=
  .ite (response_from w s _) <| .ite (deviceWrite_from w s hw _) <| .ite (deviceWrite_from w s hw _) <| .ite .refl <|
    .ite (getDescriptor_from w s sp) <| .ite .refl <| .ite (response_from w s _) <|
    .ite (setConfiguration_from w s hw sp) <| .ite (response_from w s _) <| .ite (deviceWrite_from w s hw _) .refl

theorem setLineCoding_from : (setLineCoding s).From w s :=
  (triggerRcvOut_moves w _).head (.setLineCodingPending true)

theorem setControlLineState_from (hw : .line ∈ w) (sp : SetupPacket) : (setControlLineState s sp).From w s :=
  ((checkShouldReset_from w _).after (.single (.setLine _ hw))).andThen fun t _ => triggerStatus_moves w t

/-- The rows of R170, in the order of their codes. -/
theorem classRequest_from (hw : .line ∈ w) (sp : SetupPacket) : (classRequest s sp).From w s :=
  .ite (.ite (setLineCoding_from w s) <| .ite (response_from w s _) <| .ite (setControlLineState_from w s hw sp) <|
    .ite (triggerStatus_moves w s) .refl) .refl

theorem dispatchSetup_from (hd : .dev ∈ w) (hl : .line ∈ w) (sp : SetupPacket) : (dispatchSetup s sp).From w s :=
  .ite (standardRequest_from w s hd sp) (.ite (classRequest_from w s hl sp) .refl)

theorem lineCodingComplete_from (hw : .line ∈ w) : (lineCodingComplete s).From w s :=
  have parsed (t : State) : (checkShouldReset ((memRead t .ep0Out 0 7).2.setLine
      (lineFromBytes (memRead t .ep0Out 0 7).2.ctx.line (memRead t .ep0Out 0 7).1))).From w t :=
    (checkShouldReset_from w _).after ((memRead_moves w t _ _ _).tail (.setLine _ hw))
  .andThen (.after (.ite (parsed _) .refl) (.single (.setLineCodingPending false))) fun t _ => triggerStatus_moves w t

/-! ## The phases of the dispatcher -/

theorem initControlEndpoint_moves : Moves w s (initControlEndpoint s) := .single (.setOtherRegs _)

theorem busReady_moves (hw : .dev ∈ w) : Moves w s (busReady s) := by
  refine .tail (.tail (.tail (.tail ?_ (.setOtherRegs _)) (.setDev _ hw)) (.setPending _))
    (.setLineCodingPending _)
  refine .trans ?_ (initControlEndpoint_moves w _)
  exact .single (.setOtherRegs _)

theorem phaseA_moves (hw : .dev ∈ w) : Moves w s (phaseA s) :=
  .ite (.ite ((busReady_moves w _ hw).head (.setEvent w s _ _)) (.single (.setEvent w s _ _))) .refl

theorem dataDone_moves : Moves w s (dataDone s) := by
  unfold dataDone
  split
  · exact startEp0OutRead_moves w s
  · split
    · exact sendContinuation_moves w s _ _
    · exact triggerStatus_moves w s

theorem phaseB_moves : Moves w s (phaseB s) :=
  .ite ((dataDone_moves w _).head (.setEvent w s _ _)) .refl

theorem handleSetup_from (hd : .dev ∈ w) (hl : .line ∈ w) : (handleSetup s).From w s := by
  refine .andThen (.after (dispatchSetup_from w _ hd hl _) ?_) fun t ok => ?_
  · exact ((Relation.ReflTransGen.single (.setEvent w s _ _)).tail (.setPending none)).tail (.setLineCodingPending false)
  · exact .go (.ite .refl (triggerStall_moves w t))

theorem phaseC_from (hd : .dev ∈ w) (hl : .line ∈ w) : (phaseC s).From w s :=
  .ite (handleSetup_from w s hd hl) .refl

/-- The snapshot is EPDATASTATUS as it was; the bits it takes are cleared there (R118). -/
theorem latchEpData_moves (hw : .phase ∈ w) : Moves w s (latchEpData s) := by
  refine .ite ?_ (.single (.setSnap _ hw (.inl rfl)))
  have latch : Moves w s ((s.setEvent .epData false).setSnap s.reg.epDataStatus) :=
    .tail (.single (.setEvent w s _ _)) (.setSnap _ hw (.inr rfl))
  exact latch.tail (.setReg _ fun hs => { hs.regs with status := by simp [writeOneToClear] })

theorem handleEpData_from (ht : .takeGuard ∈ w) (hf : .freeGuard ∈ w) (n : Ep) : (handleEpData s n).From w s :=
  .andThen (.ite (bulkOutDone_from w s ht n) .refl) fun _ _ => .go (.ite (.single (.freeGuard hf)) .refl)

theorem phaseE_from {n : Ep} (hl : n = .ep0 → .line ∈ w) (hf : n = .ep2 → .freeGuard ∈ w) : (phaseE s n).From w s := by
  refine .ite (.andThen (.after ?_ (.single (.setEvent w s (.endEpOut n) false))) fun t _ => .go ?_) .refl
  · split
    · exact lineCodingComplete_from w _ (hl (And.left ‹_›))
    · exact .refl
  · split
    · exact bulkOutDeliver_moves w t (hf ‹_›) n
    · exact .refl

/-! ## The facade calls and the host -/

theorem acquireAndSend_moves (hw : .takeGuard ∈ w) (b : Byte) : Moves w s (acquireAndSend s b) :=
  ((memWrite_moves w _ _ _ _).trans (sendViaEpIn_moves w _ _ _ _)).head (.takeGuard hw)

theorem writeByte_moves (hw : .takeGuard ∈ w) (b : Byte) : Moves w s (writeByte s b) :=
  .ite (.tail (.single (.setFg _)) (.setRet _)) <| .ite (.single (.setFg _)) <|
    .tail (.tail (acquireAndSend_moves w s hw b) (.setFg _)) (.setRet _)

theorem spinStep_moves (hw : .takeGuard ∈ w) (b : Byte) : Moves w s (spinStep s b) :=
  .ite .refl <| .tail (.tail (acquireAndSend_moves w s hw b) (.setFg _)) (.setRet _)

theorem configure_moves : Moves w s (configure s) :=
  .tail (.single (.setOtherRegs _)) (.setHandlerInstalled _)

end

/-! ## The powers of each operation -/

/-- The powers an operation has: the fields of few writers that it may write. -/
def powers : Instr → List Power
  | .clearFeature _ => [.dev]
  | .setFeature _ => [.dev]
  | .setConfiguration _ => [.dev]
  | .setInterface _ => [.dev]
  | .setControlLineState _ => [.line]
  | .dispatchSetup _ => [.dev, .line]
  | .lineCodingComplete => [.line]
  | .irqInvoke => [.phase]
  | .evReady => [.phase, .dev]
  | .evEp0DataDone => [.phase]
  | .evEp0Setup => [.phase, .dev, .line]
  | .evEpData => [.phase, .takeGuard, .freeGuard]
  | .evEndEpOut0 => [.phase, .line]
  | .evEndEpOut1 => [.phase]
  | .evEndEpOut2 => [.phase, .freeGuard]
  | .evEndEpOut3 => [.phase]
  | .writeByte _ => [.takeGuard]
  | .writeByteSpin => [.takeGuard]
  | .enterCs => [.takeGuard]
  | .enterCsIrq => [.takeGuard]
  | .bulkOutDone _ => [.takeGuard]
  | .exitCs => [.freeGuard]
  | .bulkOutDeliver _ => [.freeGuard]
  | .dmaComplete => [.endDma]
  | _ => []

/-- The result of an operation with the powers `w` run in `s`: a chain of its writes, or a system reset. -/
def EndsFrom (w : List Power) (s : State) (r : Result) : Prop := ∃ t, r = .next t ∧ MovesOrResets w s t

theorem EndsFrom.next {w : List Power} {s t : State} (h : MovesOrResets w s t) : EndsFrom w s (.next t) := ⟨t, rfl, h⟩

theorem EndsFrom.moves {w : List Power} {s t : State} (h : Moves w s t) : EndsFrom w s (.next t) := .next (.inl h)

/-- A request answers with the value it returns (log 7). -/
theorem EndsFrom.returning {w : List Power} {s : State} {f : Flow Bool} (h : f.From w s) :
    EndsFrom w s (.next f.returning) := .next h.returning

/-- An operation that is not enabled answers the state it was given (log 2). -/
theorem EndsFrom.guarded {w : List Power} {s t : State} {c : Prop} [Decidable c] (h : MovesOrResets w s t) :
    EndsFrom w s (if c then .next t else .next s) := by
  split
  · exact .next h
  · exact .moves .refl

/-- A phase that ends moves the dispatcher on (R110). -/
theorem EndsFrom.phase {w : List Power} {s : State} {f : Flow Unit} {c : Prop} [Decidable c] {p : IrqPhase}
    (h : f.From w s) (hw : .phase ∈ w) : EndsFrom w s (if c then .next (f.thenPhase p) else .next s) :=
  .guarded (h.thenPhase hw p)

theorem execEvEpData_ends (s : State) : EndsFrom (powers .evEpData) s (execEvEpData s) := by
  have handle (t : State) (n : Ep) : (handleEpData t n).From (powers .evEpData) t :=
    handleEpData_from _ t (by decide) (by decide) n
  unfold execEvEpData
  split
  · exact .next (((handle _ .ep1).after (latchEpData_moves _ s (by decide))).thenPhase (by decide) .d2)
  · split
    · exact .next ((handle s .ep2).thenPhase (by decide) .d3)
    · exact .phase ((handle s .ep3).andThen fun t _ => .go (.single (.setSnap _ (by decide) (.inl rfl)))) (by decide)

theorem execWriteByteSpin_ends (s : State) : EndsFrom (powers .writeByteSpin) s (execWriteByteSpin s) := by
  unfold execWriteByteSpin
  split
  · exact .guarded (.inl (spinStep_moves _ s (by decide) _))
  · exact .moves .refl
  · exact .moves .refl

/-- Row by row: the operation writes no more than its powers allow, or resets the system. -/
theorem exec_ends (i : Instr) (s : State) : EndsFrom (powers i) s (exec i s) :=
  match i with
  | .getStatus _ => .returning (response_from _ s _)
  | .clearFeature _ => .returning (deviceWrite_from _ s (by simp [powers]) _)
  | .setFeature _ => .returning (deviceWrite_from _ s (by simp [powers]) _)
  | .setAddress _ => .moves (.single (.setRet _))
  | .getDescriptor sp => .returning (getDescriptor_from _ s sp)
  | .setDescriptor _ => .moves (.single (.setRet _))
  | .getConfiguration _ => .returning (response_from _ s _)
  | .setConfiguration sp => .returning (setConfiguration_from _ s (by simp [powers]) sp)
  | .getInterface _ => .returning (response_from _ s _)
  | .setInterface _ => .returning (deviceWrite_from _ s (by simp [powers]) _)
  | .stdOther _ => .moves (.single (.setRet _))
  | .setLineCoding _ => .returning (setLineCoding_from _ s)
  | .getLineCoding _ => .returning (response_from _ s _)
  | .setControlLineState sp => .returning (setControlLineState_from _ s (by simp [powers]) sp)
  | .sendBreak _ => .returning (.go (triggerStatus_moves _ s))
  | .classOther _ => .moves (.single (.setRet _))
  | .classOtherIf _ => .moves (.single (.setRet _))
  | .vendorReserved _ => .moves (.single (.setRet _))
  | .irqInvoke => .guarded (.inl (.single (.setPhase _ (by decide))))
  | .evReady => .guarded (.inl ((phaseA_moves _ s (by decide)).tail (.setPhase _ (by decide))))
  | .evEp0DataDone => .guarded (.inl ((phaseB_moves _ s).tail (.setPhase _ (by decide))))
  | .evEp0Setup => .phase (phaseC_from _ s (by decide) (by decide)) (by decide)
  | .evEpData => execEvEpData_ends s
  | .evEndEpOut0 => .phase (phaseE_from _ s (by decide) (by decide)) (by decide)
  | .evEndEpOut1 => .phase (phaseE_from _ s (by decide) (by decide)) (by decide)
  | .evEndEpOut2 => .phase (phaseE_from _ s (by decide) (by decide)) (by decide)
  | .evEndEpOut3 => .phase (phaseE_from _ s (by decide) (by decide)) (by decide)
  | .configure => .guarded (.inl ((configure_moves _ s).tail (.setFg _)))
  | .writeByte b => .guarded (.inl (writeByte_moves _ s (by simp [powers]) b))
  | .writeByteSpin => execWriteByteSpin_ends s
  | .dtr => .guarded (.inl (.tail (.single (.setFg _)) (.setRet _)))
  | .rts => .guarded (.inl (.tail (.single (.setFg _)) (.setRet _)))
  | .decodeSetup => .moves (.single (.setRet _))
  | .dispatchSetup sp => .returning (dispatchSetup_from _ s (by simp [powers]) (by simp [powers]) sp)
  | .stallEp0 => .moves (triggerStall_moves _ s)
  | .statusStage => .moves (triggerStatus_moves _ s)
  | .initEndpoint n => .moves (initEndpoint_moves _ s n)
  | .lineCodingComplete => .next (lineCodingComplete_from _ s (by decide)).state
  | .checkShouldReset => .next (checkShouldReset_from _ s).state
  | .getDescriptorSelect sp => .returning (getDescriptor_from _ s sp)
  | .respond _ _ => .returning (response_from _ s _)
  | .enterCs => .guarded (.inl (.ite .refl (.single (.takeGuard (by decide)))))
  | .enterCsIrq => .next (enterCriticalSectionIrq_from _ s (by decide)).state
  | .exitCs => .moves (.single (.freeGuard (by decide)))
  | .sendViaEpIn n buf off cnt => .moves (sendViaEpIn_moves _ s n ⟨buf, off⟩ cnt)
  | .sendUsbPacket n data => .moves (sendUsbPacket_moves _ s n data)
  | .sendContinuation off rem => .moves (sendContinuation_moves _ s off rem)
  | .dmaStart dir n => .moves (dmaStart_moves _ s dir n)
  | .startEp0OutRead => .moves (startEp0OutRead_moves _ s)
  | .bulkOutDone n => .next (bulkOutDone_from _ s (by simp [powers]) n).state
  | .bulkOutDeliver n => .moves (bulkOutDeliver_moves _ s (by simp [powers]) n)
  | .dmaComplete => .moves (dmaComplete_moves _ s (by decide))
  | .ringPush b => .moves (ringPush_moves _ s b)

/-- An operation makes a chain of the writes its powers allow, or it resets the system. -/
theorem exec_movesOrResets {i : Instr} {s t : State} (h : exec i s = .next t) : MovesOrResets (powers i) s t := by
  obtain ⟨u, hu, hm⟩ := exec_ends i s
  obtain rfl : u = t := by simpa [hu] using h
  exact hm

/-! ## The steps of the host and of a caller -/

section

variable (w : List Power) (s : State)

theorem hostReady_moves : Moves w s (hostReady s) := by
  refine .ite (.tail (.tail (.single (.setBus _ fun _ n d hd => ?_)) (.setEvent w _ _ _)) (.setOtherRegs _)) .refl
  exact absurd hd (by simp)

theorem hostSetup_moves (r : SetupRegs) : Moves w s (hostSetup s r) := by
  refine .ite (.tail (.tail (.single (.setOtherRegs _)) (.setBus _ fun hs => ?_)) (.setEvent w _ _ _)) .refl
  exact (hs.bus.setOutData (n := .ep0) (o := none) (by simp) :)

/-- The status bits R34 leaves unused stay 0 when a used bit is set. -/
theorem or_reserved {v b : BitVec 32} (hv : v &&& statusReserved = 0#32) (hb : b &&& statusReserved = 0#32) :
    (v ||| b) &&& statusReserved = 0#32 := by
  rw [BitVec.and_or_distrib_right, hv, hb, BitVec.or_zero]

theorem setEpInDone_reserved {v : BitVec 32} (h : v &&& statusReserved = 0#32) (n : Ep) :
    setEpInDone v n &&& statusReserved = 0#32 := by
  cases n with
  | ep0 => exact h
  | ep1 => exact or_reserved h rfl
  | ep2 => exact or_reserved h rfl
  | ep3 => exact or_reserved h rfl

theorem setEpOutDone_reserved {v : BitVec 32} (h : v &&& statusReserved = 0#32) (n : Ep) :
    setEpOutDone v n &&& statusReserved = 0#32 := by
  cases n with
  | ep0 => exact h
  | ep1 => exact or_reserved h rfl
  | ep2 => exact or_reserved h rfl
  | ep3 => exact or_reserved h rfl

theorem markInDone_moves (n : Ep) : Moves w s (markInDone s n) := by
  refine .ite (.single (.setEvent w s _ _)) (.tail (.single (.setReg _ fun hs => ?_)) (.setEvent w _ _ _))
  exact { hs.regs with status := setEpInDone_reserved hs.regs.status n }

theorem hostTakeIn_moves (n : Ep) : Moves w s (hostTakeIn s n) := by
  unfold hostTakeIn
  split
  · exact .refl
  · exact .ite (.trans (.tail (.single (.emit _)) (.setOtherBus _)) (markInDone_moves w _ n)) .refl

theorem hostSendOut_moves (n : Ep) (d : List Byte) : Moves w s (hostSendOut s n d) := by
  unfold hostSendOut
  split
  · exact .refl
  · have hd : ∀ p, some d = some p → p.length ≤ 64 := by
      rintro p ⟨⟩
      omega
    have size : (BitVec.ofNat 8 d.length).toNat ≤ 64 := by
      rw [BitVec.toNat_ofNat]
      omega
    refine .ite (.ite (.tail (.single (.setBus _ fun hs => ?_)) (.setEvent w _ _ _)) .refl)
      (.ite (.tail (.tail (.single (.setBus _ fun hs => ?_)) (.setReg _ fun hs => ?_)) (.setEvent w _ _ _)) .refl)
    · exact (hs.bus.setOutData (n := .ep0) hd :)
    · exact (hs.bus.setOutData (n := n) hd :)
    · exact { hs.regs with
        status := setEpOutDone_reserved hs.regs.status n
        sizeShort := PerEp.forall_get_set (P := fun a : Byte => a.toNat ≤ 64) hs.regs.sizeShort size }

theorem hostStep_moves (h : HostStep) : Moves w s (hostStep s h) :=
  match h with
  | .ready => hostReady_moves w s
  | .setup _ _ _ _ _ _ _ _ => hostSetup_moves w s _
  | .takeIn n => hostTakeIn_moves w s n
  | .sendOut n d => hostSendOut_moves w s n d

theorem enterCall_moves (op : FacadeOp) : Moves w s (enterCall s op) := .ite (.single (.setFg _)) .refl

end

/-! ## A step, turn by turn -/

/-- What a turn that answers a next state was: an operation of the table, a step of the host or of a caller, a system
reset, or a turn of an agent that has no step. -/
theorem takeTurn_cases {s t : State} {turn : Turn} (h : takeTurn s turn = .next t) :
    (∃ i, exec i s = .next t) ∨ (∃ op, t = enterCall s op) ∨ (∃ hs, t = hostStep s hs) ∨ t = systemReset s ∨ t = s := by
  unfold takeTurn at h
  split at h
  · unfold runRecord at h
    split at h
    · exact .inl ⟨_, h⟩
    · cases h
  · cases turn with
    | call op => exact .inr (.inl ⟨op, by simpa using h.symm⟩)
    | host hs => exact .inr (.inr (.inl ⟨hs, by simpa using h.symm⟩))
    | systemReset => exact .inr (.inr (.inr (.inl (by simpa using h.symm))))
    | irq => exact .inr (.inr (.inr (.inr (by simpa using h.symm))))
    | fg => exact .inr (.inr (.inr (.inr (by simpa using h.symm))))
    | dma => exact .inr (.inr (.inr (.inr (by simpa using h.symm))))
    | record fmt bytes => exact .inr (.inr (.inr (.inr (by simpa using h.symm))))

/-- A turn makes a chain of writes or resets the system. Only an operation of the table needs a power. -/
theorem takeTurn_movesOrResets {s t : State} {turn : Turn} (h : takeTurn s turn = .next t) :
    (∃ i, exec i s = .next t) ∨ MovesOrResets [] s t := by
  obtain h | ⟨op, rfl⟩ | ⟨hs, rfl⟩ | rfl | rfl := takeTurn_cases h
  · exact .inl h
  · exact .inr (.inl (enterCall_moves [] s op))
  · exact .inr (.inl (hostStep_moves [] s hs))
  · exact .inr (.inr ⟨s, rfl⟩)
  · exact .inr (.inl .refl)

/-- What a step that answers a next state was: the schedule was empty, or its first turn was taken. -/
theorem step_cases {s t : State} (h : step s = .next t) :
    t = s ∨ ∃ turn rest, s.sched = turn :: rest ∧ takeTurn { s with sched := rest } turn = .next t := by
  cases hs : s.sched with
  | nil => exact .inl (by simpa [step, hs, eq_comm] using h)
  | cons turn rest => exact .inr ⟨turn, rest, rfl, step_of_sched_cons hs ▸ h⟩

/-! ## The invariant at reset and through a step -/

theorem inv_reset : Inv State.reset where
  memWf := rfl
  table := rfl
  status := rfl
  snap := rfl
  snapPhase := fun _ _ => rfl
  dmaInBounds := fun _ h => nomatch h
  outShort := fun n _ h => nomatch (PerEp.get_all none n).symm.trans h
  sizeShort := fun n => by simp [State.reset, Regs.atReset]
  amountShort := fun n => by simp [State.reset, Regs.atReset]
  faultSet := List.nodup_nil

/-- Neither the schedule nor the counter of free values is in the invariant. -/
theorem Inv.withSched {s : State} (h : Inv s) (rest : List Turn) : Inv { s with sched := rest } := { h with }

theorem inv_systemReset (s : State) : Inv (systemReset s) := { inv_reset with }

section

variable {w : List Power} {s t : State}

theorem MovesOrResets.sound (h : MovesOrResets w s t) (hs : Sound s) : Sound t := by
  obtain h | ⟨u, rfl⟩ := h
  · exact h.sound hs
  · exact (inv_iff.mp (inv_systemReset u)).1

theorem MovesOrResets.snapInPhaseD (h : MovesOrResets w s t) (hw : .phase ∉ w) (hs : SnapInPhaseD s) :
    SnapInPhaseD t := by
  obtain h | ⟨u, rfl⟩ := h
  · obtain ⟨hphase, hsnap⟩ := h.phase_eq hw
    rwa [SnapInPhaseD, hphase, hsnap]
  · exact (inv_iff.mp (inv_systemReset u)).2

theorem MovesOrResets.inv (h : MovesOrResets w s t) (hw : .phase ∉ w) (hs : Inv s) : Inv t :=
  have ⟨hsound, hsnap⟩ := inv_iff.mp hs
  inv_iff.mpr ⟨h.sound hsound, h.snapInPhaseD hw hsnap⟩

/-! ## The snapshot through the phases of the dispatcher (R118, log 19)

Outside D(2) and D(3) the snapshot is zero, and a phase that does not write it leaves it so wherever the dispatcher
goes. -/

theorem snapInPhaseD_of_eq_zero (h : s.epDataSnap = 0#32) : SnapInPhaseD s := fun _ _ => h

/-- A phase other than D(2) and D(3), whose own writes touch neither the position nor the snapshot. -/
theorem snapInPhaseD_thenPhase {p : IrqPhase} {f : Flow Unit} (hf : f.From w s) (hw : .phase ∉ w) (hs : SnapInPhaseD s)
    (h₂ : s.ctx.irqPhase ≠ .d2) (h₃ : s.ctx.irqPhase ≠ .d3) : SnapInPhaseD (f.thenPhase p) := by
  cases f with
  | go u _ =>
    have hu : u.epDataSnap = s.epDataSnap := (Moves.phase_eq hf hw).2
    exact snapInPhaseD_of_eq_zero (hu.trans (hs h₂ h₃))
  | halt u => exact MovesOrResets.snapInPhaseD hf hw hs

/-- What an operation that is enabled under a condition only leaves true. -/
theorem of_guarded {P : State → Prop} {c : Prop} [Decidable c] {u : State}
    (h : (if c then .next u else .next s : Result) = .next t) (hu : c → P u) (hs : P s) : P t := by
  split at h
  · exact Host.Outcome.next.inj h ▸ hu ‹_›
  · exact Host.Outcome.next.inj h ▸ hs

theorem irqAt_iff {p : IrqPhase} : irqAt s p = true ↔ s.ctx.irqPhase = p ∧ s.hang = none := by
  simp [irqAt]

theorem mayInvoke_iff :
    mayInvoke s = true ↔ irqAt s .idle = true ∧ s.ctx.handlerInstalled = true ∧ irqLine s.reg = true := by
  simp [mayInvoke, and_assoc]

/-- A phase event at a phase other than D(2) and D(3), enabled there only. -/
theorem snapInPhaseD_of_phaseEvent {p q : IrqPhase} {f : Flow Unit}
    (h : (if irqAt s p = true then .next (f.thenPhase q) else .next s : Result) = .next t) (hs : SnapInPhaseD s)
    (hf : f.From w s) (hw : .phase ∉ w := by decide) (h₂ : p ≠ .d2 := by decide) (h₃ : p ≠ .d3 := by decide) :
    SnapInPhaseD t := by
  refine of_guarded h (fun hc => ?_) hs
  have hp : s.ctx.irqPhase = p := (irqAt_iff.mp hc).1
  exact snapInPhaseD_thenPhase hf hw hs (hp ▸ h₂) (hp ▸ h₃)

@[simp] theorem latchEpData_ctx : (latchEpData s).ctx = s.ctx := by
  unfold latchEpData
  split <;> rfl

/-- D(i) of an endpoint that is not OUT acquires nothing, so it does not hang (R118, D38). -/
theorem handleEpData_goes {n : Ep} (h : (s.ctx.epTable.get n).dir ≠ .dirOut) : ∃ u, handleEpData s n = .go u () := by
  simp [handleEpData, h]

/-- In D(1) the snapshot is taken, and the phase ends in D(2); D(2) leaves it; D(3) clears it. -/
theorem execEvEpData_snapInPhaseD (hs : Inv s) (h : execEvEpData s = .next t) : SnapInPhaseD t := by
  have hsnap : SnapInPhaseD s := (inv_iff.mp hs).2
  have handle (n : Ep) : (handleEpData s n).From [.takeGuard, .freeGuard] s :=
    handleEpData_from _ s (by decide) (by decide) n
  unfold execEvEpData at h
  split at h
  · obtain ⟨u, hu⟩ := handleEpData_goes (s := latchEpData s) (n := .ep1) (by rw [latchEpData_ctx, hs.table]; decide)
    rw [hu] at h
    cases h
    exact fun h₂ _ => absurd rfl h₂
  · split at h
    · have hf := handle .ep2
      cases he : handleEpData s .ep2 with
      | go u _ =>
        rw [he] at h
        cases h
        exact fun _ h₃ => absurd rfl h₃
      | halt u =>
        rw [he] at h hf
        cases h
        exact MovesOrResets.snapInPhaseD hf (by decide) hsnap
    · refine of_guarded h (fun _ => ?_) hsnap
      have hf := handle .ep3
      cases he : handleEpData s .ep3 with
      | go u _ => exact snapInPhaseD_of_eq_zero rfl
      | halt u =>
        rw [he] at hf
        exact MovesOrResets.snapInPhaseD hf (by decide) hsnap

/-- Only the invocation and the phase events touch the position or the snapshot. -/
theorem exec_snapInPhaseD {i : Instr} (hs : Inv s) (h : exec i s = .next t) : SnapInPhaseD t := by
  have hsnap : SnapInPhaseD s := (inv_iff.mp hs).2
  by_cases hw : .phase ∈ powers i
  · cases i with
    | irqInvoke =>
      refine of_guarded h (fun hc => ?_) hsnap
      have hp : s.ctx.irqPhase = .idle := (irqAt_iff.mp (mayInvoke_iff.mp hc).1).1
      exact snapInPhaseD_of_eq_zero (hsnap (by simp [hp]) (by simp [hp]))
    | evReady =>
      exact snapInPhaseD_of_phaseEvent (f := .go (phaseA s) ()) h hsnap (phaseA_moves [.dev] s (by decide))
    | evEp0DataDone => exact snapInPhaseD_of_phaseEvent (f := .go (phaseB s) ()) h hsnap (phaseB_moves [] s)
    | evEp0Setup => exact snapInPhaseD_of_phaseEvent h hsnap (phaseC_from [.dev, .line] s (by decide) (by decide))
    | evEpData => exact execEvEpData_snapInPhaseD hs h
    | evEndEpOut0 => exact snapInPhaseD_of_phaseEvent h hsnap (phaseE_from [.line] s (by decide) (by decide))
    | evEndEpOut1 => exact snapInPhaseD_of_phaseEvent h hsnap (phaseE_from [] s (by decide) (by decide))
    | evEndEpOut2 => exact snapInPhaseD_of_phaseEvent h hsnap (phaseE_from [.freeGuard] s (by decide) (by decide))
    | evEndEpOut3 =>
      exact snapInPhaseD_of_phaseEvent (q := .idle) h hsnap (phaseE_from [] s (by decide) (by decide))
    | _ => simp [powers] at hw
  · exact (exec_movesOrResets h).snapInPhaseD hw hsnap

theorem exec_inv {i : Instr} (hs : Inv s) (h : exec i s = .next t) : Inv t :=
  inv_iff.mpr ⟨(exec_movesOrResets h).sound (inv_iff.mp hs).1, exec_snapInPhaseD hs h⟩

end

/-! ## Which operations have a power -/

theorem eq_dmaComplete_of_endDma {i : Instr} (h : .endDma ∈ powers i) : i = .dmaComplete := by
  cases i <;> simp_all [powers]

theorem takeGuard_mem_powers {i : Instr} (h : .takeGuard ∈ powers i) :
    (∃ b, i = .writeByte b) ∨ i = .writeByteSpin ∨ i = .enterCs ∨ i = .enterCsIrq ∨ (∃ n, i = .bulkOutDone n) ∨
      i = .evEpData := by
  cases i <;> simp_all [powers]

theorem freeGuard_mem_powers {i : Instr} (h : .freeGuard ∈ powers i) :
    i = .exitCs ∨ i = .evEpData ∨ i = .evEndEpOut2 ∨ ∃ n, i = .bulkOutDeliver n := by
  cases i <;> simp_all [powers]

theorem line_mem_powers {i : Instr} (h : .line ∈ powers i) :
    (∃ sp, i = .setControlLineState sp ∨ i = .dispatchSetup sp) ∨ i = .lineCodingComplete ∨ i = .evEp0Setup ∨
      i = .evEndEpOut0 := by
  cases i <;> simp_all [powers]

theorem dev_mem_powers {i : Instr} (h : .dev ∈ powers i) :
    (∃ sp, i = .clearFeature sp ∨ i = .setFeature sp ∨ i = .setConfiguration sp ∨ i = .setInterface sp ∨
      i = .dispatchSetup sp) ∨ i = .evEp0Setup ∨ i = .evReady := by
  cases i <;> simp_all [powers]

/-- A transfer in flight is ended by the step of `DMA`, or that step is not enabled and nothing changes (R196, log 2). -/
theorem dmaComplete_of_inFlight {s : State} {x : Transfer} (hx : s.dma = some x) :
    (dmaComplete s).dma = none ∨ dmaComplete s = s := by
  by_cases he : dmaEnabled s
  · exact .inl (dmaComplete_dma he)
  · have hd : x.dir = .dirOut ∧ s.bus.outData.get x.ep = none := by simpa [dmaEnabled, hx] using he
    exact .inr (by simp [dmaComplete, hx, hd])

/-! ## The turns of the agents (R13, R22, R29) -/

theorem irqOperation_decodes (p : IrqPhase) :
    decode (irqOperation p).format (encode (irqOperation p)) = .ok (irqOperation p) := by
  cases p <;> rfl

theorem facadeOperation_decodes (op : FacadeOp) :
    decode (facadeOperation op).format (encode (facadeOperation op)) = .ok (facadeOperation op) := by
  cases op <;> rfl

/-- A turn of `IRQ` runs the operation of its phase. -/
theorem takeTurn_irq (s : State) : takeTurn s .irq = exec (irqOperation s.ctx.irqPhase) s :=
  runRecord_of_decode_ok (irqOperation_decodes s.ctx.irqPhase)

/-- A turn of `DMA` runs DMA_COMPLETE. -/
theorem takeTurn_dma (s : State) : takeTurn s .dma = exec .dmaComplete s :=
  runRecord_of_decode_ok (Laws.RoundTrip.dmaComplete rfl)

section

variable {s : State}

/-- A turn of `FG` with a call entered runs the call. -/
theorem takeTurn_fg_call {op : FacadeOp} (h : s.ctx.fg = .call op) : takeTurn s .fg = exec (facadeOperation op) s := by
  simp only [takeTurn, turnRecord, h, fgOperation, Option.map_some]
  exact runRecord_of_decode_ok (facadeOperation_decodes op)

/-- A turn of `FG` with a spin in progress runs an iteration of it. -/
theorem takeTurn_fg_spin {b : Byte} (h : s.ctx.fg = .spin b) : takeTurn s .fg = exec .writeByteSpin s := by
  simp only [takeTurn, turnRecord, h, fgOperation, Option.map_some]
  exact runRecord_of_decode_ok (Laws.RoundTrip.writeByteSpin rfl)

/-- A turn of `FG` without a call is used up (log 2). -/
theorem takeTurn_fg_ready (h : s.ctx.fg = .ready) : takeTurn s .fg = .next s := by
  simp [takeTurn, turnRecord, h, fgOperation]

@[simp] theorem takeTurn_call (op : FacadeOp) : takeTurn s (.call op) = .next (enterCall s op) := rfl

@[simp] theorem takeTurn_host (h : HostStep) : takeTurn s (.host h) = .next (hostStep s h) := rfl

@[simp] theorem takeTurn_systemReset : takeTurn s .systemReset = .next (systemReset s) := rfl

theorem enterCall_of_ready (hp : s.ctx.irqPhase = .idle) (hh : s.hang = none) (hf : s.ctx.fg = .ready) (op : FacadeOp) :
    enterCall s op = s.setFg (.call op) := by
  simp [enterCall, fgRuns, irqAt, hp, hh, hf]

/-! ## The conditions of an invocation and of a call -/

/-- The interrupt line, cause by cause (R39). -/
theorem irqLine_iff {r : Regs} :
    irqLine r = true ↔
      (r.inten.usbEvent = true ∧ r.events.usbEvent = true) ∨ (r.inten.ep0Setup = true ∧ r.events.ep0Setup = true) ∨
        (r.inten.ep0DataDone = true ∧ r.events.ep0DataDone = true) ∨
        (r.inten.epData = true ∧ r.events.epData = true) ∨
        ∃ n, r.inten.endEpOut.get n = true ∧ r.events.endEpOut.get n = true := by
  have hn : (∃ n, r.inten.endEpOut.get n = true ∧ r.events.endEpOut.get n = true) ↔
      (r.inten.endEpOut.e0 = true ∧ r.events.endEpOut.e0 = true) ∨
        (r.inten.endEpOut.e1 = true ∧ r.events.endEpOut.e1 = true) ∨
        (r.inten.endEpOut.e2 = true ∧ r.events.endEpOut.e2 = true) ∨
        (r.inten.endEpOut.e3 = true ∧ r.events.endEpOut.e3 = true) := by
    constructor
    · rintro ⟨n, h⟩
      cases n with
      | ep0 => exact .inl h
      | ep1 => exact .inr (.inl h)
      | ep2 => exact .inr (.inr (.inl h))
      | ep3 => exact .inr (.inr (.inr h))
    · rintro (h | h | h | h)
      · exact ⟨.ep0, h⟩
      · exact ⟨.ep1, h⟩
      · exact ⟨.ep2, h⟩
      · exact ⟨.ep3, h⟩
  simp only [irqLine, Bool.or_eq_true, Bool.and_eq_true, hn, or_assoc]

theorem mayCall_of_callMayRun {op : FacadeOp} (h : Claims.CallMayRun s op) : mayCall s op = true := by
  obtain ⟨hp, hh, hf⟩ := h
  simpa [mayCall, fgRuns, irqAt, hp, hh] using hf

/-! ## The bits of the line state and of the endpoint masks -/

theorem dtrBit_eq (l : LineInfo) : dtrBit l = decide (l.lineState.toNat % 2 = 1) :=
  have bit : ∀ v : BitVec 2, v.getLsbD 0 = decide (v.toNat % 2 = 1) := by decide
  bit l.lineState

theorem rtsBit_eq (l : LineInfo) : rtsBit l = decide (l.lineState.toNat / 2 = 1) :=
  have bit : ∀ v : BitVec 2, v.getLsbD 1 = decide (v.toNat / 2 = 1) := by decide
  bit l.lineState

/-- Bit n of a mask is the endpoint's bit (R31). -/
theorem testEpBit_eq (mask : BitVec 4) (n : Ep) : testEpBit mask n = mask.getLsbD (epNum n) := by
  revert mask
  cases n <;> decide

theorem setEpInDone_eq (v : BitVec 32) {n : Ep} (h : n ≠ .ep0) : setEpInDone v n = v ||| (1#32 <<< epNum n) := by
  cases n with
  | ep0 => exact absurd rfl h
  | ep1 => rfl
  | ep2 => rfl
  | ep3 => rfl

theorem setEpOutDone_eq (v : BitVec 32) {n : Ep} (h : n ≠ .ep0) :
    setEpOutDone v n = v ||| (1#32 <<< (16 + epNum n)) := by
  cases n with
  | ep0 => exact absurd rfl h
  | ep1 => rfl
  | ep2 => rfl
  | ep3 => rfl

end

/-! ## INIT_ENDPOINT by direction (R149) -/

theorem initEndpoint_dirIn {s : State} {n : Ep} (h : (s.ctx.epTable.get n).dir = .dirIn) :
    initEndpoint s n = s.setReg { s.reg with epInEn := setEpBit s.reg.epInEn n } := by
  simp only [initEndpoint, h]

theorem initEndpoint_dirOut {s : State} {n : Ep} (h : (s.ctx.epTable.get n).dir = .dirOut) :
    initEndpoint s n = rearmOut (s.setReg { s.reg with epOutEn := setEpBit s.reg.epOutEn n }) n := by
  simp only [initEndpoint, h]

@[simp] theorem initEndpoint_ctx (s : State) (n : Ep) : (initEndpoint s n).ctx = s.ctx := by
  unfold initEndpoint
  split <;> rfl

/-- The three data endpoints in turn, under the constant table. -/
theorem initEndpoint_all {s : State} (h : s.ctx.epTable = epTableConst) :
    initEndpoint (initEndpoint (initEndpoint s .ep1) .ep2) .ep3
      = { s with
        reg := { s.reg with epInEn := s.reg.epInEn ||| 0b1010#4, epOutEn := s.reg.epOutEn ||| 0b0100#4 }
        bus := { s.bus with outArmed := { s.bus.outArmed with e2 := true } } } := by
  have bits : s.reg.epInEn ||| 0b1010#4 = setEpBit (setEpBit s.reg.epInEn .ep1) .ep3 :=
    (BitVec.or_assoc s.reg.epInEn 0b0010#4 0b1000#4).symm
  have table {t : State} (ht : t.ctx = s.ctx) : t.ctx.epTable = epTableConst := ht ▸ h
  rw [initEndpoint_dirIn (by rw [table (by simp)]; rfl), initEndpoint_dirOut (by rw [table (by simp)]; rfl),
    initEndpoint_dirIn (by rw [table rfl]; rfl), bits]
  rfl

/-! ## Block reads and the delivery of bulk OUT data (R72, R195) -/

theorem races_read_iff {s : State} {buf : BufId} {j : Nat} :
    races s.dma false buf j = true ↔ Claims.RacedRead s buf j := by
  cases h : s.dma with
  | none => simp [races, Claims.RacedRead, h]
  | some x => simp [races, Claims.RacedRead, h, inRegion, and_assoc]

/-- The fault set of a read of the first `n` bytes of a buffer. -/
theorem memRead_afterRead (s : State) (buf : BufId) (n : Nat) :
    Claims.AfterRead s buf n (memRead s buf 0 n).2.faults := by
  intro r
  rw [mem_memRead_faults, mem_raceFaults, mem_uninitFaults]
  simp only [Nat.zero_add, races_read_iff]

/-- A read of written bytes, none of which races, changes nothing and gives the bytes. -/
theorem memRead_of_holds {s : State} {buf : BufId} {data : List Byte} (h : Claims.Holds s.mem buf 0 data)
    (hr : ∀ j, j < data.length → ¬ Claims.RacedRead s buf j) : memRead s buf 0 data.length = (data, s) := by
  have hrace : raceFaults s.dma false buf 0 data.length = [] := by
    refine List.eq_nil_iff_forall_not_mem.mpr fun r hm => ?_
    obtain ⟨j, hj, hrj, -⟩ := mem_raceFaults.mp hm
    rw [Nat.zero_add] at hrj
    exact hr j hj (races_read_iff.mp hrj)
  have huninit : uninitFaults s.mem buf 0 data.length = [] :=
    uninitFaults_nil fun j hj => by rw [h j hj]; simpa using hj
  exact Prod.ext (peekAll_of_load h) (memRead_quiet s hrace huninit)

/-- The delivery, from what its read gives: the bytes are pushed from the free value after the read on. -/
theorem bulkOutDeliver_eq {s u : State} {n : Ep} {bytes : List Byte}
    (h : memRead s (outBuf n) 0 (s.reg.epOutAmount.get n).toNat = (bytes, u)) :
    bulkOutDeliver s n
      = { s with
        ctx := { s.ctx with dmaBusy := false }
        bus := { s.bus with outArmed := s.bus.outArmed.set n true }
        faults := u.faults
        history := s.history ++ bytes.map HistoryEvent.push
        sink := s.sink ++ Claims.handed u.freeIdx bytes
        freeIdx := u.freeIdx + bytes.length } := by
  have hu : u = { s with faults := u.faults, freeIdx := u.freeIdx } := by
    have hread := memRead_eq s (outBuf n) 0 (s.reg.epOutAmount.get n).toNat
    rwa [h] at hread
  simp only [bulkOutDeliver, h]
  rw [pushAll_eq, hu]
  rfl

/-! ## The host takes a packet and sends one (R277, R278) -/

section

variable {s : State} {n : Ep}

theorem markInDone_data (hn : n ≠ .ep0) :
    markInDone s n
      = (s.setReg { s.reg with epDataStatus := s.reg.epDataStatus ||| (1#32 <<< epNum n) }).setEvent .epData true := by
  rw [markInDone, if_neg hn, setEpInDone_eq _ hn]

theorem hostTakeIn_enabled {p : List Byte} (hp : s.bus.inLoaded.get n = some p)
    (hen : s.reg.epInEn.getLsbD (epNum n) = true) (hpull : s.reg.usbPullup = true) :
    hostTakeIn s n
      = markInDone ((s.emit (.tx n p)).setBus { s.bus with inLoaded := s.bus.inLoaded.set n none }) n := by
  simp [hostTakeIn, hp, testEpBit_eq, hen, hpull]

theorem hostTakeIn_not_enabled (h : s.bus.inLoaded.get n = none ∨ s.reg.epInEn.getLsbD (epNum n) = false ∨
    s.reg.usbPullup = false) : hostTakeIn s n = s := by
  unfold hostTakeIn
  split
  · rfl
  · refine if_neg fun hc => ?_
    rw [testEpBit_eq] at hc
    simp_all

theorem hostSendOut_ep0 (d : List Byte) :
    hostSendOut s .ep0 d
      = if d.length ≤ 64 ∧ s.bus.ep0RcvArmed = true then
          (s.setBus { s.bus with outData := s.bus.outData.set .ep0 (some d), ep0RcvArmed := false }).setEvent
            .ep0DataDone true
        else s := by
  by_cases hd : d.length ≤ 64
  · simp [hostSendOut, hostOutControl, hd, Nat.not_lt.mpr hd]
  · simp [hostSendOut, hd, Nat.lt_of_not_le hd]

theorem hostSendOut_data (hn : n ≠ .ep0) (d : List Byte) :
    hostSendOut s n d
      = if d.length ≤ 64 ∧ s.reg.epOutEn.getLsbD (epNum n) = true ∧ s.bus.outArmed.get n = true then
          ((s.setBus { s.bus with
              outData := s.bus.outData.set n (some d), outArmed := s.bus.outArmed.set n false }).setReg
            { s.reg with
              sizeEpOut := s.reg.sizeEpOut.set n (BitVec.ofNat 8 d.length)
              epDataStatus := s.reg.epDataStatus ||| (1#32 <<< (16 + epNum n)) }).setEvent .epData true
        else s := by
  by_cases hd : d.length ≤ 64
  · simp [hostSendOut, hostOutData, hn, hd, Nat.not_lt.mpr hd, testEpBit_eq, setEpOutDone_eq _ hn]
  · simp [hostSendOut, hd, Nat.lt_of_not_le hd]

end

end Sys2Proof.Machine

namespace Sys2Proof.Claims

open Sys2Proof.Machine

/-- The one state a system reset of any state with this schedule and counter gives. -/
theorem eq_resetOf {t u : State} (h : t = systemReset u) : t = resetOf t := by
  subst h
  rfl

/-- A chain of writes or a system reset removes no fault but by the reset. -/
theorem faults_kept_or_reset {w : List Power} {s t : State} (h : MovesOrResets w s t) :
    (∀ r, r ∈ s.faults → r ∈ t.faults) ∨ t = resetOf t := by
  obtain h | ⟨u, hu⟩ := h
  · exact .inl fun r hr => h.mem_faults hr
  · exact .inr (eq_resetOf hu)

/-- Settles O10: what every write of a step keeps (`Move.sound`), and where the phases of the dispatcher leave the
snapshot (`exec_snapInPhaseD`). -/
theorem stepKeepsInvariant : Obligations.StepKeepsInvariant := by
  unfold Obligations.StepKeepsInvariant
  intro s s' hs h
  obtain rfl | ⟨turn, rest, -, ht⟩ := step_cases h
  · exact hs
  · obtain ⟨i, hi⟩ | hm := takeTurn_movesOrResets ht
    · exact exec_inv (hs.withSched rest) hi
    · exact hm.inv (by decide) (hs.withSched rest)

/-- Settles O12: no single write removes a fault (`Move.mem_faults`). -/
theorem faultsAreNeverRemoved : Obligations.FaultsAreNeverRemoved := by
  unfold Obligations.FaultsAreNeverRemoved
  intro s t h
  obtain rfl | ⟨turn, rest, -, ht⟩ := step_cases h
  · exact .inl fun _ hr => hr
  · obtain ⟨i, hi⟩ | hm := takeTurn_movesOrResets ht
    · exact faults_kept_or_reset (s := { s with sched := rest }) (exec_movesOrResets hi)
    · exact faults_kept_or_reset (s := { s with sched := rest }) hm

/-- Settles O13: a start needs a free channel (`Move.dma_eq`), and only DMA_COMPLETE may free it. -/
theorem transferInFlightIsNeverReplaced : Obligations.TransferInFlightIsNeverReplaced := by
  unfold Obligations.TransferInFlightIsNeverReplaced
  intro i s t x hx h
  by_cases hw : .endDma ∈ powers i
  · obtain rfl := eq_dmaComplete_of_endDma hw
    obtain rfl : dmaComplete s = t := Host.Outcome.next.inj h
    obtain hn | hs := dmaComplete_of_inFlight hx
    · exact .inr (.inl ⟨hn, rfl⟩)
    · exact .inl (hs.symm ▸ hx)
  · obtain hm | ⟨u, hu⟩ := exec_movesOrResets h
    · exact .inl (hm.dma_eq hw hx)
    · exact .inr (.inr (eq_resetOf hu))

/-- Settles O14: the guard is taken and released only with the powers to do so; a reset leaves it free. -/
theorem guardChangesOnlyAtItsUsers : Obligations.GuardChangesOnlyAtItsUsers := by
  unfold Obligations.GuardChangesOnlyAtItsUsers
  intro i s t h
  obtain hm | ⟨u, hu⟩ := exec_movesOrResets h
  · constructor
    · intro hs ht
      refine takeGuard_mem_powers (Classical.byContradiction fun hw => ?_)
      simp [hm.guard_stays_free hw hs] at ht
    · intro hs ht
      have hw : .freeGuard ∈ powers i := Classical.byContradiction fun hw => by
        simp [hm.guard_stays_held hw hs] at ht
      simpa only [or_assoc] using Or.inl (b := t = resetOf t) (freeGuard_mem_powers hw)
  · constructor
    · intro _ ht
      subst hu
      cases ht
    · exact fun _ _ => .inr (.inr (.inr (.inr (eq_resetOf hu))))

/-- Settles O15: LineInfo and DeviceState are written only with the powers to do so, or by a reset. -/
theorem lineAndDeviceStateHaveFewWriters : Obligations.LineAndDeviceStateHaveFewWriters := by
  unfold Obligations.LineAndDeviceStateHaveFewWriters
  intro i s t h
  obtain hm | ⟨u, hu⟩ := exec_movesOrResets h
  · constructor
    · intro hne
      have hw : .line ∈ powers i := Classical.byContradiction fun hw => hne (hm.line_eq hw)
      simpa only [or_assoc] using Or.inl (b := t = resetOf t) (line_mem_powers hw)
    · intro hne
      have hw : .dev ∈ powers i := Classical.byContradiction fun hw => hne (hm.dev_eq hw)
      simpa only [or_assoc] using Or.inl (b := t = resetOf t) (dev_mem_powers hw)
  · have hr := eq_resetOf hu
    exact ⟨fun _ => .inr (.inr (.inr (.inr hr))), fun _ => .inr (.inr (.inr hr))⟩

/-- Settles O7: a turn of `IRQ` runs `irqOperation` of its phase. -/
theorem stepRunsPhaseOperation : Obligations.StepRunsPhaseOperation := by
  unfold Obligations.StepRunsPhaseOperation
  intro s rest hsched
  have hstep : step s = exec (irqOperation s.ctx.irqPhase) { s with sched := rest } :=
    (step_of_sched_cons hsched).trans (takeTurn_irq _)
  have run {p : IrqPhase} (hp : s.ctx.irqPhase = p) : step s = exec (irqOperation p) { s with sched := rest } :=
    hp ▸ hstep
  exact ⟨run, run, run, run, fun hp => hp.elim run fun hp => hp.elim run run, run, run, run, run⟩

/-- Settles O8, turn by turn: the operation of the call or of the spin, the entry of a call, DMA_COMPLETE, the reset. -/
theorem stepRunsForegroundAndDmaOperation : Obligations.StepRunsForegroundAndDmaOperation := by
  unfold Obligations.StepRunsForegroundAndDmaOperation
  intro s rest
  have call {op : FacadeOp} (hsched : s.sched = .fg :: rest) (hf : s.ctx.fg = .call op) :
      step s = exec (facadeOperation op) { s with sched := rest } :=
    (step_of_sched_cons hsched).trans (takeTurn_fg_call hf)
  refine ⟨fun hs _ hf => call hs hf, call, call, call, ?_, ?_, ?_, ?_, ?_⟩
  · exact fun hs b hf => (step_of_sched_cons hs).trans (takeTurn_fg_spin hf)
  · exact fun hs hf => (step_of_sched_cons hs).trans (takeTurn_fg_ready hf)
  · intro op hs hp hh hf
    rw [step_of_sched_cons hs, takeTurn_call]
    exact congrArg Host.Outcome.next (enterCall_of_ready (s := { s with sched := rest }) hp hh hf op)
  · exact fun hs => (step_of_sched_cons hs).trans (takeTurn_dma _)
  · intro hs
    rw [step_of_sched_cons hs, takeTurn_systemReset]
    rfl

/-- Settles O9: the reset values as the model writes them, and `inv_reset`. -/
theorem resetMeetsInvariant : Obligations.ResetMeetsInvariant := by
  unfold Obligations.ResetMeetsInvariant
  refine ⟨rfl, rfl, rfl, rfl, rfl, rfl, rfl, rfl, rfl, rfl, rfl, rfl, rfl, rfl, rfl, rfl, rfl, rfl, rfl, rfl, rfl, rfl,
    rfl, ?_, inv_reset⟩
  intro buf off
  simp [State.reset, Memory.load, Memory.get]

/-- Settles O19: the model's test of an invocation is R110's condition. -/
theorem invocationEntersPhaseA : Obligations.InvocationEntersPhaseA := by
  unfold Obligations.InvocationEntersPhaseA
  intro s
  have hiff : mayInvoke s = true ↔ InvocationEnabled s := by
    rw [mayInvoke_iff, irqAt_iff, irqLine_iff, InvocationEnabled, AtPhase, and_left_comm]
  constructor
  · intro h
    exact if_pos (hiff.mpr h)
  · intro h
    exact if_neg (fun hm => h (hiff.mp hm))

/-- Settles O31: the recipient is the device, so the endpoints are set up one by one (`initEndpoint_all`). -/
theorem setConfigurationEnablesEndpoints : Obligations.SetConfigurationEnablesEndpoints := by
  unfold Obligations.SetConfigurationEnablesEndpoints
  intro sp s ht hdev
  have hrecipient : sp.recipient = 0#5 := BitVec.eq_of_toNat_eq (by simpa [SetupPacket.recipient] using hdev)
  simp only [exec, execSetConfiguration, setConfiguration, hrecipient, if_true]
  rw [initEndpoint_all (by simpa using ht)]
  rfl

/-- Settles O32: the direction the table gives each endpoint. -/
theorem initEndpointByDirection : Obligations.InitEndpointByDirection := by
  unfold Obligations.InitEndpointByDirection
  intro s ht
  refine ⟨?_, ?_, ?_⟩
  · exact congrArg Host.Outcome.next (initEndpoint_dirIn (by rw [ht]; rfl))
  · exact congrArg Host.Outcome.next (initEndpoint_dirOut (by rw [ht]; rfl))
  · exact congrArg Host.Outcome.next (initEndpoint_dirIn (by rw [ht]; rfl))

/-- Settles O52: the read's bytes and faults (`memRead_afterRead`), then the pushes in order (`pushAll_eq`). -/
theorem bulkOutDeliverPushesInOrder : Obligations.BulkOutDeliverPushesInOrder := by
  unfold Obligations.BulkOutDeliverPushesInOrder
  intro n s data b
  refine ⟨?_, ?_, rfl⟩
  · intro hlen hholds hrace
    have hread := memRead_of_holds hholds hrace
    rw [hlen] at hread
    exact congrArg Host.Outcome.next (bulkOutDeliver_eq hread)
  · refine ⟨peekAll s (outBuf n) 0 (s.reg.epOutAmount.get n).toNat, _, _, peekAll_length _ _ _ _, ?_, ?_,
      memRead_freeIdx_le _ _ _ _, congrArg Host.Outcome.next (bulkOutDeliver_eq rfl)⟩
    · intro j c hj hc
      rw [peekAll_length] at hj
      rw [peekAll_getElem? _ _ _ _ _ hj, Nat.zero_add, peek_of_load hc]
    · rw [peekAll_length]
      exact memRead_afterRead _ _ _

/-- Settles O54: the unwritten byte is among those the read records, and the transfer completes all the same. -/
theorem unwrittenByteIsRecorded : Obligations.UnwrittenByteIsRecorded := by
  unfold Obligations.UnwrittenByteIsRecorded
  intro s x j hx hd hj hn
  have hdone : exec .dmaComplete s = .next (completeIn s x) := by
    simp only [exec, execDmaComplete, dmaComplete, hx, hd]
  refine ⟨completeIn s x, peekAll s x.buf x.off.toNat x.cnt.toNat, hdone, ?_, rfl, ?_, peekAll_length _ _ _ _, ?_, ?_⟩
  · have hmem : .uninitRead x.buf (x.off.toNat + j) ∈ uninitFaults s.mem x.buf x.off.toNat x.cnt.toNat :=
      mem_uninitFaults.mpr ⟨j, hj, hn, rfl⟩
    simpa [completeIn] using (mem_afterUninit_faults s).mpr (.inr hmem)
  · simp [completeIn]
  · simp [completeIn]
  · intro k b hk hb
    rw [peekAll_getElem? _ _ _ _ _ hk, peek_of_load hb]

/-- Settles O58: the two bits of the line state, by number. -/
theorem dtrAndRtsReadLineState : Obligations.DtrAndRtsReadLineState := by
  unfold Obligations.DtrAndRtsReadLineState
  intro s
  constructor
  · intro h
    rw [← dtrBit_eq]
    exact if_pos (mayCall_of_callMayRun h)
  · intro h
    rw [← rtsBit_eq]
    exact if_pos (mayCall_of_callMayRun h)

/-- Settles O60, host step by host step. -/
theorem hostInAndOut : Obligations.HostInAndOut := by
  unfold Obligations.HostInAndOut
  intro s rest n d
  refine ⟨fun hs => ⟨?_, ?_⟩, ?_, ?_⟩
  · intro p hp hen hpull
    refine ⟨markInDone s n, ?_, ?_, markInDone_data⟩
    · rw [step_of_sched_cons hs]
      refine congrArg Host.Outcome.next ((hostTakeIn_enabled (s := { s with sched := rest }) hp hen hpull).trans ?_)
      by_cases hn : n = .ep0
      · subst hn
        rfl
      · rw [markInDone_data hn, markInDone_data hn]
        rfl
    · rintro rfl
      rfl
  · intro h
    rw [step_of_sched_cons hs]
    exact congrArg Host.Outcome.next (hostTakeIn_not_enabled (s := { s with sched := rest }) h)
  · intro hs
    rw [step_of_sched_cons hs]
    exact congrArg Host.Outcome.next (hostSendOut_ep0 (s := { s with sched := rest }) d)
  · intro hn hs
    rw [step_of_sched_cons hs]
    exact congrArg Host.Outcome.next (hostSendOut_data (s := { s with sched := rest }) hn d)

end Sys2Proof.Claims

/-! SUPPORT and PROOFS of 20_memory.md: little-endian values, the bytes a block write leaves and a block read gives, DMA
starts, responses under a transfer in flight, and the packets of a control response in their order. -/

namespace Sys2Proof.Machine

/-! ## Little-endian values (R11, R63, R64) -/

/-- The value of two fields one above the other. -/
theorem toNat_append_eq_add {m n : Nat} (hi : BitVec m) (lo : BitVec n) :
    (hi ++ lo).toNat = lo.toNat + 2 ^ n * hi.toNat := by
  rw [BitVec.toNat_append, ← Nat.shiftLeft_add_eq_or_of_lt lo.isLt, Nat.shiftLeft_eq, Nat.add_comm, Nat.mul_comm]

theorem ofLe16_toNat (lo hi : Byte) : (ofLe16 lo hi).toNat = lo.toNat + 256 * hi.toNat :=
  toNat_append_eq_add hi lo

theorem ofLe32_toNat (b0 b1 b2 b3 : Byte) :
    (ofLe32 b0 b1 b2 b3).toNat = b0.toNat + 2 ^ 8 * b1.toNat + 2 ^ 16 * b2.toNat + 2 ^ 24 * b3.toNat := by
  simp only [ofLe32, toNat_append_eq_add]
  omega

/-- A 32-bit value is that of its bytes, the lowest first. -/
theorem toNat_eq_bytes (v : Word) :
    v.toNat = (v.extractLsb' 0 8).toNat + 256 * (v.extractLsb' 8 8).toNat + 65536 * (v.extractLsb' 16 8).toNat
      + 16777216 * (v.extractLsb' 24 8).toNat := by
  simp only [BitVec.extractLsb'_toNat, Nat.shiftRight_eq_div_pow]
  omega

/-! ## Block writes (R66, R72) -/

/-- A write of data that fits its buffer writes exactly the data. -/
theorem wrote_storeAll (m : Memory) {buf : BufId} {off : Nat} {data : List Byte}
    (h : off + data.length ≤ capacity buf) : Claims.Wrote m (m.storeAll buf off data) buf off data :=
  fun b o => Memory.load_storeAll m buf b off o data h

/-- What was written is held. -/
theorem holds_of_wrote {m m' : Memory} {buf : BufId} {off : Nat} {data : List Byte}
    (h : Claims.Wrote m m' buf off data) : Claims.Holds m' buf off data := by
  intro j hj
  rw [h buf (off + j), if_pos ⟨rfl, by omega, by omega⟩, Nat.add_sub_cancel_left]

theorem races_write_iff {x : Transfer} {buf : BufId} {j : Nat} :
    races (some x) true buf j = true ↔ x.buf = buf ∧ x.off.toNat ≤ j ∧ j < x.off.toNat + x.cnt.toNat := by
  simp [races, inRegion, and_assoc]

/-! ## DMA starts (R189, R192) -/

/-- DMA_START, in the words of the statements. -/
theorem dmaStart_eq_started (s : State) (dir : Dir) (n : Ep) :
    dmaStart s dir n
      = Claims.started s dir n (ptrOf s.reg dir n).buf (ptrOf s.reg dir n).off (maxCntOf s.reg dir n) := by
  cases hd : s.dma with
  | some x =>
    rw [dmaStart_busy s hd, Claims.started, hd]
    rfl
  | none =>
    rw [Claims.started, hd]
    by_cases hb : (ptrOf s.reg dir n).off.toNat + (maxCntOf s.reg dir n).toNat ≤ capacity (ptrOf s.reg dir n).buf
    · rw [dmaStart_free s hd hb, if_pos hb]
      rfl
    · rw [dmaStart_outside s hd (Nat.lt_of_not_le hb), if_neg hb]
      rfl

/-- A send under a transfer in flight programs the registers and is refused (R189, R192). -/
theorem sendViaEpIn_busy {s : State} {x : Transfer} (h : s.dma = some x) (n : Ep) (ref : BufRef) (cnt : Half) :
    sendViaEpIn s n ref cnt = (programIn s n ref cnt).raise (.dmaContention x .dirIn n) :=
  dmaStart_busy (programIn s n ref cnt) h .dirIn n

/-! ## A response that fits its buffer (R190) -/

/-- What sending `data` on an endpoint leaves as the continuation: on endpoint 0 what exceeds one packet. -/
def pendingAfter (c : Ctx) (n : Ep) (data : List Byte) : Option Pending :=
  if n = .ep0 then
    if 64 < data.length then some ⟨64#16, BitVec.ofNat 16 (data.length - 64)⟩ else none
  else c.pending

/-- The bytes of `data` in the first packet: on endpoint 0 at most 64, elsewhere all of them. -/
def firstCount (n : Ep) (data : List Byte) : Nat := if n = .ep0 then min data.length 64 else data.length

/-- SEND_USB_PACKET of a response that fits: the data is written, the continuation recorded, the first packet sent. -/
theorem sendUsbPacket_fits (s : State) {n : Ep} {data : List Byte} (h : data.length ≤ capacity (inBuf n)) :
    sendUsbPacket s n data
      = sendViaEpIn ((memWrite s (inBuf n) 0 data).setPending (pendingAfter s.ctx n data)) n ⟨inBuf n, 0#16⟩
          (BitVec.ofNat 16 (firstCount n data)) := by
  by_cases hn : n = .ep0
  · subst hn
    have hfit : ¬ Config.ctrlInBuf < data.length := Nat.not_lt.mpr h
    by_cases hmore : 64 < data.length
    · have hmax : Config.maxPkt < data.length := hmore
      rw [sendUsbPacket, if_pos rfl, sendControl, if_neg hfit, if_pos hmax, pendingAfter, if_pos rfl, if_pos hmore,
        firstCount, if_pos rfl, Nat.min_eq_right hmore.le]
      rfl
    · have hmax : ¬ Config.maxPkt < data.length := hmore
      rw [sendUsbPacket, if_pos rfl, sendControl, if_neg hfit, if_neg hmax, pendingAfter, if_pos rfl, if_neg hmore,
        firstCount, if_pos rfl, Nat.min_eq_left (Nat.le_of_not_lt hmore)]
      rfl
  · have hp : (memWrite s (inBuf n) 0 data).setPending s.ctx.pending = memWrite s (inBuf n) 0 data := by
      rw [memWrite_eq]
      rfl
    rw [sendUsbPacket, if_neg hn, sendData, if_neg (Nat.not_lt.mpr h), pendingAfter, if_neg hn, hp, firstCount,
      if_neg hn]

/-- A response sent while `x` is in flight (R72, R192, R302). -/
theorem sendUsbPacket_sentUnder {s : State} {x : Transfer} (hx : s.dma = some x) {n : Ep} {data : List Byte}
    (h : data.length ≤ capacity (inBuf n)) : Claims.SentUnder s x (sendUsbPacket s n data) n data := by
  have hbusy := (sendUsbPacket_fits s h).trans (sendViaEpIn_busy (x := x) (by simp [hx]) n _ _)
  refine ⟨s.mem.storeAll (inBuf n) 0 data, (sendUsbPacket s n data).faults, wrote_storeAll s.mem (by omega), ?_, ?_⟩
  · intro r
    rw [hbusy, State.mem_raise_faults, programIn_faults, State.setPending_faults, mem_memWrite_faults, mem_raceFaults,
      hx]
    simp only [Nat.zero_add, races_write_iff, and_assoc, or_assoc]
    exact or_congr_right or_comm
  · rw [hbusy, memWrite_eq]
    by_cases hn : n = .ep0
    · subst hn
      rfl
    · simp only [pendingAfter, firstCount, if_neg hn]
      rfl

/-! ## The packets of a control response (R63, R190, R191, R196) -/

/-- The packets are the bytes of `rest` in order, 64 in each but the last. -/
def CutsInOrder (ps : List (List Byte)) (rest : List Byte) : Prop :=
  ps.flatten = rest ∧ ∀ k p, ps[k]? = some p → p = (rest.drop (64 * k)).take 64

theorem CutsInOrder.one {rest : List Byte} (h : rest.length ≤ 64) : CutsInOrder [rest.take 64] rest := by
  refine ⟨by simpa using List.take_of_length_le h, ?_⟩
  intro k p hp
  obtain ⟨rfl, rfl⟩ : k = 0 ∧ rest.take 64 = p := by simpa [List.getElem?_singleton] using hp
  rfl

theorem CutsInOrder.cons {ps : List (List Byte)} {rest : List Byte} (h : CutsInOrder ps (rest.drop 64)) :
    CutsInOrder (rest.take 64 :: ps) rest := by
  obtain ⟨hall, hcut⟩ := h
  refine ⟨by rw [List.flatten_cons, hall, List.take_append_drop], ?_⟩
  rintro (_ | k) p hp
  · exact (Option.some.inj hp).symm
  · rw [hcut k p hp, List.drop_drop, Nat.mul_succ, Nat.add_comm]

/-- What is still to send of a response of `len` bytes once `off` bytes are (R24). -/
def continuationAt (len off : Nat) : Option Pending :=
  if len ≤ off then none else some ⟨BitVec.ofNat 16 off, BitVec.ofNat 16 (len - off)⟩

theorem pendingAfter_ep0 (c : Ctx) (data : List Byte) : pendingAfter c .ep0 data = continuationAt data.length 64 := by
  rw [pendingAfter, if_pos rfl, continuationAt, ← ite_not]
  simp only [Nat.not_lt]

/-- The response `data` stands in the EP0 IN buffer, the DMA of its packet from byte `off` on is in flight, and what
comes after the packet is the continuation. -/
structure PacketInFlight (s : State) (data : List Byte) (off : Nat) : Prop where
  fits : data.length ≤ 256
  off_le : off ≤ data.length
  holds : Claims.Holds s.mem .ep0In 0 data
  dma : s.dma = some ⟨.dirIn, .ep0, .ep0In, BitVec.ofNat 16 off, BitVec.ofNat 16 ((data.drop off).take 64).length⟩
  pending : s.ctx.pending = continuationAt data.length (off + 64)

/-- A response of at most 256 bytes starts with its packet from byte 0 on. -/
theorem sendUsbPacket_packetInFlight {s : State} {data : List Byte} (hd : s.dma = none) (h : data.length ≤ 256) :
    PacketInFlight (sendUsbPacket s .ep0 data) data 0 := by
  have hcount : firstCount .ep0 data = ((data.drop 0).take 64).length := by simp [firstCount, Nat.min_comm]
  have hbounds : (0#16).toNat + (BitVec.ofNat 16 (firstCount .ep0 data)).toNat ≤ capacity .ep0In := by
    simp only [BitVec.toNat_ofNat, capacity, Config.ctrlInBuf, firstCount, if_true]
    omega
  rw [sendUsbPacket_fits s h, sendViaEpIn_free _ (by simp [hd]) hbounds]
  have hwrote := wrote_storeAll s.mem (buf := .ep0In) (off := 0) (data := data) (by rwa [Nat.zero_add])
  refine ⟨h, Nat.zero_le _, holds_of_wrote hwrote, ?_, pendingAfter_ep0 s.ctx data⟩
  rw [← hcount]
  rfl

section

variable {s : State} {data : List Byte} {off : Nat}

/-- The packet in flight is loaded, and the channel is free (R196). -/
theorem PacketInFlight.dmaComplete_eq (h : PacketInFlight s data off) :
    dmaComplete s
      = ((s.setBus { s.bus with inLoaded := s.bus.inLoaded.set .ep0 (some ((data.drop off).take 64)) }).setEvent
          (.endEpIn .ep0) true).setDma none := by
  obtain ⟨hfit, hoff, hholds, hdma, -⟩ := h
  have hlen : ((data.drop off).take 64).length ≤ 64 := List.length_take_le _ _
  have hload : ∀ j, j < ((data.drop off).take 64).length →
      s.mem.load .ep0In (off + j) = ((data.drop off).take 64)[j]? := by
    intro j hj
    have hj' : j < 64 ∧ off + j < data.length := by
      rw [List.length_take, List.length_drop] at hj
      omega
    rw [List.getElem?_take, if_pos hj'.1, List.getElem?_drop, ← hholds _ hj'.2, Nat.zero_add]
  have hwritten : uninitFaults s.mem .ep0In off ((data.drop off).take 64).length = [] :=
    uninitFaults_nil fun j hj => by rw [hload j hj]; simpa using hj
  simp only [dmaComplete, hdma, completeIn, BitVec.toNat_ofNat]
  rw [Nat.mod_eq_of_lt (by omega), Nat.mod_eq_of_lt (by omega), hwritten, peekAll_of_load hload]
  rfl

/-- While more than the packet is left, the continuation starts the packet after it (R191). -/
theorem PacketInFlight.sendContinuation_next (h : PacketInFlight s data off) (hmore : off + 64 < data.length) :
    PacketInFlight
      (sendContinuation (dmaComplete s) (BitVec.ofNat 16 (off + 64)) (BitVec.ofNat 16 (data.length - (off + 64))))
      data (off + 64) := by
  have hdone := h.dmaComplete_eq
  obtain ⟨hfit, hoff, hholds, hdma, -⟩ := h
  have hrem : (BitVec.ofNat 16 (data.length - (off + 64))).toNat = data.length - (off + 64) := by
    rw [BitVec.toNat_ofNat]
    omega
  have hcount : min (data.length - (off + 64)) 64 = ((data.drop (off + 64)).take 64).length := by
    rw [List.length_take, List.length_drop, Nat.min_comm]
  have hbounds : (BitVec.ofNat 16 (off + 64)).toNat + (BitVec.ofNat 16 (min (data.length - (off + 64)) 64)).toNat
      ≤ capacity .ep0In := by
    simp only [BitVec.toNat_ofNat, capacity, Config.ctrlInBuf]
    omega
  simp only [sendContinuation, hrem, Config.maxPkt]
  rw [sendViaEpIn_free _ (by rw [hdone]; rfl) hbounds, hdone]
  refine ⟨hfit, by omega, hholds, ?_, ?_⟩
  · simp only [State.setPending_dma, State.setDma_dma, hcount]
  · simp only [State.setPending_ctx, continuationAt]
    by_cases hlast : data.length ≤ off + 64 + 64
    · rw [if_pos hlast, if_pos (by omega)]
    · rw [if_neg hlast, if_neg (by omega), Nat.min_eq_right (by omega), ← BitVec.ofNat_add,
        BitVec.ofNat_sub_ofNat_of_le _ _ (by omega) (by omega), Nat.sub_sub]

end

/-- From a packet in flight on, the rest of the response is sent in order. -/
theorem PacketInFlight.sendsPackets {s : State} {data : List Byte} {off : Nat} (h : PacketInFlight s data off) :
    ∃ ps, Claims.SendsPackets s ps ∧ CutsInOrder ps (data.drop off) := by
  have hloaded : (dmaComplete s).bus.inLoaded.e0 = some ((data.drop off).take 64) := by
    rw [h.dmaComplete_eq]
    rfl
  have hpending : (dmaComplete s).ctx.pending = continuationAt data.length (off + 64) := by
    rw [h.dmaComplete_eq]
    exact h.pending
  by_cases hlast : data.length ≤ off + 64
  · refine ⟨_, .last rfl hloaded (hpending.trans (if_pos hlast)), .one ?_⟩
    rw [List.length_drop]
    omega
  · obtain ⟨ps, hps, hcut⟩ := (h.sendContinuation_next (Nat.lt_of_not_le hlast)).sendsPackets
    refine ⟨_, .more rfl hloaded (hpending.trans (if_neg hlast)) rfl hps, .cons ?_⟩
    rwa [List.drop_drop]
  termination_by data.length - off

/-! ## What the requests answer with (R141, R215) -/

/-- The endpoint a 4-bit number names has that number, and every number below `NUM_EP` names one. -/
theorem epOfNibble_cases (v : BitVec 4) :
    (∃ n, epOfNibble v = some n ∧ epNum n = v.toNat) ∨ (epOfNibble v = none ∧ 4 ≤ v.toNat) := by
  have h : ∀ v : BitVec 4, ((epOfNibble v).map epNum = some v.toNat) ∨ (epOfNibble v = none ∧ 4 ≤ v.toNat) := by decide
  exact (h v).imp_left Option.map_eq_some_iff.mp

/-- For the endpoint recipient: the bit of `index[3:0]`, which endpoints 4 to 15 do not have (R82, R141). -/
theorem statusFlag_endpoint {dev : DeviceState} {sp : SetupPacket} (h : sp.requestType.toNat % 32 = 2) :
    statusFlag dev sp = dev.endpointHaltFlags.getLsbD (sp.index.toNat % 16) := by
  have hrec : sp.recipient = 2#5 := BitVec.eq_of_toNat_eq (by simpa [SetupPacket.recipient] using h)
  have hnum : sp.endpoint.toNat = sp.index.toNat % 16 := by simp [SetupPacket.endpoint]
  rw [statusFlag, if_pos hrec, ← hnum]
  obtain ⟨n, hn, hv⟩ | ⟨hn, hv⟩ := epOfNibble_cases sp.endpoint
  · rw [hn, ← hv]
    exact testEpBit_eq _ n
  · rw [hn]
    exact (BitVec.getLsbD_of_ge _ _ hv).symm

theorem statusFlag_other {dev : DeviceState} {sp : SetupPacket} (h : sp.requestType.toNat % 32 ≠ 2) :
    statusFlag dev sp = false := by
  refine if_neg fun hrec => h ?_
  simpa [SetupPacket.recipient] using congrArg BitVec.toNat hrec

/-- RESPOND sends the descriptor cut to the packet's length (R216). -/
theorem respond_eq (s : State) (sp : SetupPacket) (d : List Byte) :
    respond s sp d = .go (sendUsbPacket s .ep0 (d.take sp.length.toNat)) true := by
  rw [respond, Nat.min_comm, ← List.take_eq_take_min]

/-- RESPOND while `x` is in flight. -/
theorem respond_sentUnder {s : State} {x : Transfer} (hx : s.dma = some x) {sp : SetupPacket} {d : List Byte}
    (h : min d.length sp.length.toNat ≤ 256) :
    ∃ t, Claims.SentUnder s x t .ep0 (d.take sp.length.toNat) ∧
      (respond s sp d).returning = { t with ret := .bool true } := by
  have hfits : (d.take sp.length.toNat).length ≤ capacity (inBuf .ep0) := by rwa [List.length_take, Nat.min_comm]
  exact ⟨_, sendUsbPacket_sentUnder hx hfits, by rw [respond_eq]; rfl⟩

theorem deviceDesc_eq : deviceDesc = Claims.deviceBytes := by
  have low (v : Half) : v.extractLsb' 0 8 = v.setWidth 8 := BitVec.eq_of_toNat_eq (by simp)
  have high (v : Half) : v.extractLsb' 8 8 = (v >>> 8).setWidth 8 := BitVec.eq_of_toNat_eq (by simp)
  simp only [deviceDesc, Claims.deviceBytes, le16, low, high]
  rfl

theorem strDesc_eq (text : List Byte) : strDesc text = Claims.stringBytes text := by
  have units : utf16 text = text.flatMap fun c => [c, 0x00#8] := by
    induction text with
    | nil => rfl
    | cons c cs ih => rw [utf16, ih, List.flatMap_cons]; rfl
  rw [strDesc, units, Claims.stringBytes]

/-- A string descriptor of a parameter fits the EP0 IN buffer (R7, R233). -/
theorem stringBytes_asciiParam_length (text : List Byte) :
    (Claims.stringBytes (Config.asciiParam text)).length ≤ 256 := by
  have htext : (Config.asciiParam text).length ≤ 126 := by simp [Config.asciiParam]
  simp only [Claims.stringBytes, List.length_append, List.length_flatMap, List.length_cons, List.length_nil,
    List.map_const', List.sum_replicate, smul_eq_mul]
  omega

/-- The selection finds the descriptor a packet asks for, and it fits the buffer. -/
theorem selectDescriptor_of_asksFor {sp : SetupPacket} {d : List Byte} (h : Claims.AsksFor sp d) :
    selectDescriptor sp.valueHigh sp.valueLow = .data d ∧ d.length ≤ 256 := by
  obtain ⟨hh, rfl⟩ | ⟨hh, rfl⟩ | ⟨hh, hl, rfl⟩ | ⟨hh, hl, rfl⟩ | ⟨hh, hl, rfl⟩ := h
  · exact ⟨by simp [selectDescriptor, hh, deviceDesc_eq], by simp [Claims.deviceBytes]⟩
  · exact ⟨by rw [hh]; rfl, by simp [Claims.configBytes]⟩
  · exact ⟨by rw [hh, hl]; rfl, by simp⟩
  · exact ⟨by simp [selectDescriptor, hh, hl, strDesc_eq], stringBytes_asciiParam_length _⟩
  · exact ⟨by simp [selectDescriptor, hh, hl, strDesc_eq], stringBytes_asciiParam_length _⟩

theorem selectDescriptor_index_unsupported {l : Byte} (h : 3 < l.toNat) :
    selectDescriptor 0x03#8 l = .unsupported := by
  have hne (v : Byte) (hv : v.toNat ≤ 3) : l ≠ v := by
    rintro rfl
    omega
  simp [selectDescriptor, hne 0x00#8, hne 0x01#8, hne 0x02#8, hne 0x03#8]

theorem selectDescriptor_type_unsupported {t : Byte} (h : t = 0x00#8 ∨ 3 < t.toNat) (l : Byte) :
    selectDescriptor t l = .unsupported := by
  have hne (v : Byte) (hv : 1 ≤ v.toNat ∧ v.toNat ≤ 3) : t ≠ v := by
    rintro rfl
    obtain rfl | h := h
    · simp at hv
    · omega
  simp [selectDescriptor, hne 0x01#8, hne 0x02#8, hne 0x03#8]

/-- Both rows that answer GET_DESCRIPTOR run `getDescriptor` (R145, R215). -/
theorem exec_getDescriptor {i : Instr} {sp : SetupPacket} (h : i = .getDescriptor sp ∨ i = .getDescriptorSelect sp)
    (s : State) : exec i s = .next (getDescriptor s sp).returning := by
  obtain rfl | rfl := h <;> rfl

/-! ## LINE_CODING_COMPLETE (R92, R175) -/

/-- The baud rate parsed from a read has at each place the byte read there. -/
theorem lineFromBytes_baudByte (l : LineInfo) (s : State) (buf : BufId) {j : Nat} (hj : j < 4) :
    (lineFromBytes l (peekAll s buf 0 7)).baudRate.toNat / 256 ^ j % 256 = (peek s buf j).toNat := by
  have hbaud : (lineFromBytes l (peekAll s buf 0 7)).baudRate.toNat
      = (peek s buf 0).toNat + 2 ^ 8 * (peek s buf 1).toNat + 2 ^ 16 * (peek s buf 2).toNat
        + 2 ^ 24 * (peek s buf 3).toNat := ofLe32_toNat _ _ _ _
  rw [hbaud]
  interval_cases j <;> omega

/-- Fewer than seven bytes: nothing is read, and the status stage ends the transfer. -/
theorem lineCodingComplete_short {s : State} (h : s.reg.epOutAmount.e0.toNat < 7) :
    lineCodingComplete s = .go (triggerStatus (s.setLineCodingPending false)) () := by
  have hshort : ¬ 7 ≤ ((s.setLineCodingPending false).reg.epOutAmount.get .ep0).toNat := Nat.not_le.mpr h
  simp only [lineCodingComplete, if_neg hshort, Flow.andThen_go]

/-- Seven bytes or more, from what their read gives: the line information is parsed and the hook is called. -/
theorem exec_lineCodingComplete_parsed {s u : State} {bytes : List Byte} (h : 7 ≤ s.reg.epOutAmount.e0.toNat)
    (hread : memRead (s.setLineCodingPending false) .ep0Out 0 7 = (bytes, u)) :
    exec .lineCodingComplete s = .next { s with
        ctx := { s.ctx with lineCodingPending := false, line := lineFromBytes s.ctx.line bytes }
        faults := u.faults
        history := s.history ++ [.hook (lineFromBytes s.ctx.line bytes), .status]
        freeIdx := u.freeIdx + 1 } ∨
      exec .lineCodingComplete s = .next { Claims.resetOf s with freeIdx := u.freeIdx + 1 } := by
  have hlong : 7 ≤ ((s.setLineCodingPending false).reg.epOutAmount.get .ep0).toNat := h
  have hu : u = { s.setLineCodingPending false with faults := u.faults, freeIdx := u.freeIdx } := by
    have hwrites := memRead_eq (s.setLineCodingPending false) .ep0Out 0 7
    rwa [hread] at hwrites
  simp only [exec, execLineCodingComplete, lineCodingComplete, if_pos hlong, hread]
  obtain hhook | hhook := checkShouldReset_cases (u.setLine (lineFromBytes u.ctx.line bytes))
  · refine .inl ?_
    rw [hhook, hu]
    simp [State.emit, State.nextFree, State.setLine, State.setCtx, State.setLineCodingPending, triggerStatus]
  · refine .inr ?_
    rw [hhook, hu]
    rfl

end Sys2Proof.Machine

namespace Sys2Proof.Claims

open Sys2Proof.Machine

/-- Settles O47: the first packet is in flight after the send, and each continuation brings the next one
(`PacketInFlight.sendsPackets`, by induction on the bytes left). -/
theorem responsePacketsKeepByteOrder : Obligations.ResponsePacketsKeepByteOrder := by
  unfold Obligations.ResponsePacketsKeepByteOrder
  intro s t data hd hlen ht
  obtain rfl : sendUsbPacket s .ep0 data = t := Host.Outcome.next.inj ht
  exact (sendUsbPacket_packetInFlight hd hlen).sendsPackets

/-- Settles O4: the packet of the registers, with the 16-bit fields as `ofLe16_toNat` says. -/
theorem setupFieldsAssembledLittleEndian : Obligations.SetupFieldsAssembledLittleEndian := by
  unfold Obligations.SetupFieldsAssembledLittleEndian
  intro s
  exact ⟨s.reg.setup.packet, rfl, rfl, rfl, rfl, ofLe16_toNat _ _, ofLe16_toNat _ _, rfl⟩

/-- Settles O35: each response is one send under the transfer in flight (`sendUsbPacket_sentUnder`); the other answers
do not look at the transfer. -/
theorem responseUnderTransferFaults : Obligations.ResponseUnderTransferFaults := by
  unfold Obligations.ResponseUnderTransferFaults
  intro sp s x i hx
  have short {data : List Byte} (h : data.length ≤ 7) : SentUnder s x (sendUsbPacket s .ep0 data) .ep0 data :=
    sendUsbPacket_sentUnder hx (h.trans (by decide))
  refine ⟨?_, ⟨_, short (by simp), rfl⟩, ⟨_, short (by simp), rfl⟩,
    ⟨_, _, _, _, _, toNat_eq_bytes _, short (by simp), rfl⟩, ?_, ?_, ?_⟩
  · refine ⟨_, _, short (by simp), rfl, ?_, ?_⟩
    · intro h
      rw [statusFlag_endpoint h]
    · intro h
      rw [statusFlag_other h]
      rfl
  · intro n data h
    exact ⟨_, sendUsbPacket_sentUnder hx h, rfl⟩
  · intro d h
    obtain ⟨t, ht, heq⟩ := respond_sentUnder hx h
    exact ⟨t, ht, congrArg Host.Outcome.next heq⟩
  · intro hi
    rw [exec_getDescriptor hi]
    refine ⟨?_, ?_, ?_, ?_⟩
    · intro d hd
      obtain ⟨hsel, hlen⟩ := selectDescriptor_of_asksFor hd
      obtain ⟨t, ht, heq⟩ := respond_sentUnder hx ((Nat.min_le_left _ _).trans hlen)
      exact ⟨t, ht, by rw [getDescriptor, hsel]; exact congrArg Host.Outcome.next heq⟩
    · intro hh hl
      rw [getDescriptor, hh, hl]
      rfl
    · intro hh hl
      rw [getDescriptor, hh, selectDescriptor_index_unsupported hl]
      rfl
    · intro hh
      rw [getDescriptor, selectDescriptor_type_unsupported hh]
      rfl

/-- Settles O40: what the read of seven bytes gives (`memRead_afterRead`, `memRead_of_holds`) is parsed. -/
theorem lineCodingPayloadParsed : Obligations.LineCodingPayloadParsed := by
  unfold Obligations.LineCodingPayloadParsed
  intro s
  refine ⟨?_, ?_, ?_⟩
  · intro h
    exact congrArg (fun f => Host.Outcome.next (Flow.state f)) (lineCodingComplete_short h)
  · intro hlong hrace p0 p1 p2 p3 p4 p5 p6 l hholds hbaud hformat hparity hbits hstate
    have hread := memRead_of_holds (s := s.setLineCodingPending false) hholds hrace
    have hl : lineFromBytes s.ctx.line [p0, p1, p2, p3, p4, p5, p6] = l := by
      have hbaud' : ofLe32 p0 p1 p2 p3 = l.baudRate :=
        BitVec.eq_of_toNat_eq ((ofLe32_toNat p0 p1 p2 p3).trans hbaud.symm)
      rw [lineFromBytes, hbaud', ← hformat, ← hparity, ← hbits, ← hstate]
    exact hl ▸ exec_lineCodingComplete_parsed (u := s.setLineCodingPending false) hlong hread
  · intro hlong
    refine ⟨lineFromBytes s.ctx.line (peekAll (s.setLineCodingPending false) .ep0Out 0 7), _, _,
      memRead_afterRead (s.setLineCodingPending false) .ep0Out 7,
      Nat.lt_succ_of_le (memRead_freeIdx_le (s.setLineCodingPending false) .ep0Out 0 7), rfl, ?_,
      fun b hb => peek_of_load hb, fun b hb => peek_of_load hb, fun b hb => peek_of_load hb,
      exec_lineCodingComplete_parsed hlong rfl⟩
    intro j b hj hb
    exact (lineFromBytes_baudByte _ _ _ hj).trans (congrArg BitVec.toNat (peek_of_load hb))

/-- Settles O48: `dmaStart_eq_started`, for the pointer and the count of either direction. -/
theorem dmaStartChecksChannelAndBounds : Obligations.DmaStartChecksChannelAndBounds := by
  unfold Obligations.DmaStartChecksChannelAndBounds
  intro dir n s ref cnt href hcnt
  obtain rfl : ref = ptrOf s.reg dir n := by
    rw [href]
    cases dir <;> rfl
  obtain rfl : cnt = maxCntOf s.reg dir n := by
    rw [hcnt]
    cases dir <;> rfl
  exact congrArg Host.Outcome.next (dmaStart_eq_started s dir n)

/-- Settles O55: a response under a transfer in flight (`sendUsbPacket_sentUnder`) records each byte it races. -/
theorem bufferReuseIsARace : Obligations.BufferReuseIsARace := by
  unfold Obligations.BufferReuseIsARace
  intro s x data j hx hbuf hlen hj hlo hhi
  obtain ⟨m, fs, hwrote, hfs, ht⟩ := sendUsbPacket_sentUnder hx (n := .ep0) hlen
  refine ⟨_, congrArg Host.Outcome.next ht, (hfs _).mpr (.inr (.inr ⟨j, hj, hbuf, hlo, hhi, rfl⟩)),
    (hfs _).mpr (.inr (.inl rfl)), hx, hwrote⟩

end Sys2Proof.Claims

/-! SUPPORT and PROOFS of 30_encoding.md: what every decoder of a record has in common, the row a packet selects, and the
requests whose operands the encoding fixes. -/

namespace Sys2Proof.Laws

/-! ## Decoders (R80, R97, log 3)

A record is read operand by operand. Whatever is read is read again when bytes stand after the record, and the operation
is a well-formed one of the record's format. Both are kept by the ways the decoders are put together. -/

/-- What `take` reads from a record it reads from every longer one, and it meets `P`. -/
def Reads {α : Type} (take : List Byte → Except DecodeError (α × List Byte)) (P : α → Prop) : Prop :=
  ∀ bytes a rest, take bytes = .ok (a, rest) → P a ∧ ∀ more, take (bytes ++ more) = .ok (a, rest ++ more)

/-- The operations `dec` gives are well-formed ones of the format, and it gives the same for every longer record. -/
def Decodes (fmt : Format) (dec : List Byte → Except DecodeError Instr) : Prop :=
  ∀ bytes i, dec bytes = .ok i →
    (i.wellFormed = true ∧ i.format = fmt) ∧ ∀ more, dec (bytes ++ more) = .ok i

namespace Decodes

variable {fmt : Format}

theorem ok {i : Instr} (hwf : i.wellFormed = true) (hfmt : i.format = fmt) : Decodes fmt fun _ => .ok i := by
  rintro bytes _ ⟨⟩
  exact ⟨⟨hwf, hfmt⟩, fun _ => rfl⟩

theorem error (e : DecodeError) : Decodes fmt fun _ => .error e := by
  rintro bytes i ⟨⟩

theorem ite {c : Prop} [Decidable c] {dec dec' : List Byte → Except DecodeError Instr} (h : Decodes fmt dec)
    (h' : Decodes fmt dec') : Decodes fmt fun bytes => if c then dec bytes else dec' bytes := by
  by_cases hc : c
  · simpa only [if_pos hc] using h
  · simpa only [if_neg hc] using h'

/-- One operand, and then a decoder of what is left. -/
theorem operand {α : Type} {take : List Byte → Except DecodeError (α × List Byte)} {P : α → Prop}
    {mk : α → List Byte → Except DecodeError Instr} (htake : Reads take P) (hmk : ∀ a, P a → Decodes fmt (mk a)) :
    Decodes fmt fun bytes => with1 take bytes mk := by
  intro bytes i h
  simp only [with1] at h ⊢
  cases hread : take bytes with
  | error e => simp [hread] at h
  | ok read =>
    obtain ⟨a, rest⟩ := read
    obtain ⟨ha, hlonger⟩ := htake bytes a rest hread
    rw [hread] at h
    obtain ⟨hi, hmore⟩ := hmk a ha rest i h
    exact ⟨hi, fun more => by rw [hlonger more]; exact hmore more⟩

end Decodes

/-! ## Operands -/

namespace Reads

variable {α : Type} {P : α → Prop}

theorem ok {a : α} (ha : P a) : Reads (fun bytes => .ok (a, bytes)) P := by
  rintro bytes _ _ ⟨⟩
  exact ⟨ha, fun _ => rfl⟩

theorem error (e : DecodeError) : Reads (fun _ => .error e) P := by
  rintro bytes a rest ⟨⟩

theorem ite {c : Prop} [Decidable c] {take take' : List Byte → Except DecodeError (α × List Byte)} (h : Reads take P)
    (h' : Reads take' P) : Reads (fun bytes => if c then take bytes else take' bytes) P := by
  by_cases hc : c
  · simpa only [if_pos hc] using h
  · simpa only [if_neg hc] using h'

/-- A reader that needs one byte more than the empty record has. -/
theorem cons {take : List Byte → Except DecodeError (α × List Byte)} (hnil : take [] = .error .shortRecord)
    (hcons : ∀ b, Reads (fun bytes => take (b :: bytes)) P) : Reads take P := by
  rintro (_ | ⟨b, bytes⟩) a rest h
  · rw [hnil] at h
    cases h
  · exact hcons b bytes a rest h

end Reads

theorem reads_takePacket : Reads takePacket fun _ => True := by
  intro bytes sp rest h
  unfold takePacket at h
  split at h
  · cases h
    exact ⟨trivial, fun _ => rfl⟩
  · cases h

theorem reads_takeByte : Reads takeByte fun _ => True := .cons rfl fun _ => .ok trivial

theorem reads_takeHalf : Reads takeHalf fun _ => True := .cons rfl fun _ => .cons rfl fun _ => .ok trivial

theorem reads_takeEp : Reads takeEp fun _ => True :=
  .cons rfl fun _ =>
    .ite (.ok trivial) <| .ite (.ok trivial) <| .ite (.ok trivial) <| .ite (.ok trivial) <| .error _

/-- INIT_ENDPOINT has no control endpoint (R149). -/
theorem reads_takeDataEp : Reads takeDataEp fun n => n ≠ .ep0 :=
  .cons rfl fun _ => .ite (.ok nofun) <| .ite (.ok nofun) <| .ite (.ok nofun) <| .error _

theorem reads_takeDir : Reads takeDir fun _ => True :=
  .cons rfl fun _ => .ite (.ok trivial) <| .ite (.ok trivial) <| .error _

theorem reads_takeBuf : Reads takeBuf fun _ => True :=
  .cons rfl fun _ =>
    .ite (.ok trivial) <| .ite (.ok trivial) <| .ite (.ok trivial) <| .ite (.ok trivial) <| .ite (.ok trivial) <|
      .ite (.ok trivial) <| .ite (.ok trivial) <| .ite (.ok trivial) <| .error _

/-- A byte sequence is as long as its 16-bit length says. -/
theorem reads_takeData : Reads takeData fun d => d.length < 65536 := by
  intro bytes d rest h
  simp only [takeData] at h ⊢
  cases hread : takeHalf bytes with
  | error e => simp [hread] at h
  | ok read =>
    obtain ⟨len, tail⟩ := read
    obtain ⟨-, hlonger⟩ := reads_takeHalf bytes len tail hread
    simp only [hread] at h
    split at h
    case isFalse => cases h
    case isTrue hlen =>
      cases h
      refine ⟨(List.length_take_le _ _).trans_lt len.isLt, fun more => ?_⟩
      have hlen' : len.toNat ≤ (tail ++ more).length := by
        rw [List.length_append]
        omega
      simp only [hlonger more, if_pos hlen', List.take_append_of_le_length hlen, List.drop_append_of_le_length hlen]

/-! ## The row a packet selects (R83 to R89) -/

/-- A packet with another request code is not of a standard row. -/
theorem not_isStandard {sp : SetupPacket} {pattern : Half} (hp : pattern.extractLsb' 5 2 = 0#2)
    (h : sp.request ≠ pattern.extractLsb' 8 8) : sp.isStandard pattern = false :=
  eq_false_of_ne_true fun hs => h (standard_fields hs hp).2

/-- A packet with another request code is not of a named class row. -/
theorem not_isClass {sp : SetupPacket} {pattern : Half} (hp : pattern.extractLsb' 5 2 = 1#2)
    (h : sp.request ≠ pattern.extractLsb' 8 8) : sp.isClass pattern = false :=
  eq_false_of_ne_true fun hc => h (class_fields hc hp).2.1

/-- A mask within bits 6:5 of the key tests the type bits alone (R81, R83). -/
theorem matchesRow_of_typeBits {sp : SetupPacket} {m t : BitVec 2} (h : sp.typeBits &&& m = t) :
    sp.matchesRow (0#8 ++ (0#1 ++ m ++ 0#5)) (0#8 ++ (0#1 ++ t ++ 0#5)) = true := by
  have hkey : sp.key &&& 0xFF60#16 = sp.request ++ (0#1 ++ sp.typeBits ++ 0#5) :=
    beq_iff_eq.mp (matchesRow_of_fields rfl rfl)
  have hmask : ∀ m : BitVec 2, 0#8 ++ (0#1 ++ m ++ 0#5) = 0xFF60#16 &&& (0#8 ++ (0#1 ++ m ++ 0#5)) := by decide
  rw [SetupPacket.matchesRow, beq_iff_eq, hmask m, ← BitVec.and_assoc, hkey, BitVec.and_append, BitVec.and_append,
    BitVec.and_append, h]
  simp

/-- The mask 0x0060 tests all of the type bits. -/
theorem matchesRow_type {sp : SetupPacket} {t : BitVec 2} (h : sp.typeBits = t) :
    sp.matchesRow 0x0060#16 (0#8 ++ (0#1 ++ t ++ 0#5)) = true :=
  matchesRow_of_typeBits (m := 3#2) (h ▸ BitVec.and_allOnes)

theorem selectStandard_wellFormed {sp : SetupPacket} (ht : sp.typeBits = 0#2) :
    (selectStandard sp).wellFormed = true := by
  unfold selectStandard
  split_ifs with h00 h01 h03 h05 h06 h07 h08 h09 h0A h0B
  · exact (matchesRow_of_fields ht h00 :)
  · exact (matchesRow_of_fields ht h01 :)
  · exact (matchesRow_of_fields ht h03 :)
  · exact (matchesRow_of_fields ht h05 :)
  · exact (matchesRow_of_fields ht h06 :)
  · exact (matchesRow_of_fields ht h07 :)
  · exact (matchesRow_of_fields ht h08 :)
  · exact (matchesRow_of_fields ht h09 :)
  · exact (matchesRow_of_fields ht h0A :)
  · exact (matchesRow_of_fields ht h0B :)
  · have htype : sp.matchesRow 0x0060#16 0x0000#16 = true := matchesRow_type ht
    have hnamed : standardPatterns.any sp.isStandard = false := by
      simp only [standardPatterns, List.any_cons, List.any_nil, Bool.or_eq_false_iff]
      exact ⟨not_isStandard rfl h00, not_isStandard rfl h01, not_isStandard rfl h03, not_isStandard rfl h05,
        not_isStandard rfl h06, not_isStandard rfl h07, not_isStandard rfl h08, not_isStandard rfl h09,
        not_isStandard rfl h0A, not_isStandard rfl h0B, trivial⟩
    simp only [Instr.wellFormed, htype, hnamed]
    rfl

theorem selectClass_wellFormed {sp : SetupPacket} (ht : sp.typeBits = 1#2) (hi : sp.index = Config.ifComm) :
    (selectClass sp).wellFormed = true := by
  have row {r : Byte} (hr : sp.request = r) : sp.isClass (r ++ (0#1 ++ 1#2 ++ 0#5)) = true := by
    rw [SetupPacket.isClass, matchesRow_of_fields ht hr, hi]
    rfl
  unfold selectClass
  split_ifs with h20 h21 h22 h23
  · exact (row h20 :)
  · exact (row h21 :)
  · exact (row h22 :)
  · exact (row h23 :)
  · have htype : sp.matchesRow 0x0060#16 0x0020#16 = true := matchesRow_type ht
    have hnamed : classPatterns.any sp.isClass = false := by
      simp only [classPatterns, List.any_cons, List.any_nil, Bool.or_eq_false_iff]
      exact ⟨not_isClass rfl h20, not_isClass rfl h21, not_isClass rfl h22, not_isClass rfl h23, trivial⟩
    simp only [Instr.wellFormed, htype, hnamed, hi]
    rfl

/-- The row a packet selects is one its key, type bits and index match. -/
theorem selectRow_wellFormed (sp : SetupPacket) : (selectRow sp).wellFormed = true := by
  unfold selectRow
  split_ifs with h0 h1 hi
  · exact selectStandard_wellFormed h0
  · exact selectClass_wellFormed h1 hi
  · have htype : sp.matchesRow 0x0060#16 0x0020#16 = true := matchesRow_type h1
    simpa [Instr.wellFormed, htype] using hi
  · have hhigh : ∀ t : BitVec 2, t ≠ 0#2 → t ≠ 1#2 → t &&& 2#2 = 2#2 := by decide
    exact (matchesRow_of_typeBits (hhigh _ h0 h1) :)

theorem selectStandard_format (sp : SetupPacket) : (selectStandard sp).format = .setup := by
  unfold selectStandard
  split_ifs <;> rfl

theorem selectClass_format (sp : SetupPacket) : (selectClass sp).format = .setup := by
  unfold selectClass
  split_ifs <;> rfl

theorem selectRow_format (sp : SetupPacket) : (selectRow sp).format = .setup := by
  unfold selectRow
  split_ifs
  · exact selectStandard_format sp
  · exact selectClass_format sp
  · rfl
  · rfl

/-! ## The three formats -/

theorem decodeEvent_decodes (id : BitVec 4) : Decodes .event fun _ => decodeEvent id :=
  .ite (.ok rfl rfl) <| .ite (.ok rfl rfl) <| .ite (.ok rfl rfl) <| .ite (.ok rfl rfl) <| .ite (.ok rfl rfl) <|
    .ite (.ok rfl rfl) <| .ite (.ok rfl rfl) <| .ite (.ok rfl rfl) <| .ite (.ok rfl rfl) <| .error _

theorem decodeCall_decodes (id : Byte) : Decodes .call (decodeCall id) :=
  .ite (.ok rfl rfl) <|
  .ite (.operand reads_takeByte fun _ _ => .ok rfl rfl) <|
  .ite (.ok rfl rfl) <|
  .ite (.ok rfl rfl) <|
  .ite (.ok rfl rfl) <|
  .ite (.ok rfl rfl) <|
  .ite (.operand reads_takePacket fun _ _ => .ok rfl rfl) <|
  .ite (.ok rfl rfl) <|
  .ite (.ok rfl rfl) <|
  .ite (.operand reads_takeDataEp fun _ hn => .ok (bne_iff_ne.mpr hn) rfl) <|
  .ite (.ok rfl rfl) <|
  .ite (.ok rfl rfl) <|
  .ite (.operand reads_takePacket fun _ _ => .ok rfl rfl) <|
  .ite (.operand reads_takePacket fun _ _ => .operand reads_takeData fun _ hd => .ok (decide_eq_true hd) rfl) <|
  .ite (.ok rfl rfl) <|
  .ite (.ok rfl rfl) <|
  .ite (.ok rfl rfl) <|
  .ite (.operand reads_takeEp fun _ _ => .operand reads_takeBuf fun _ _ => .operand reads_takeHalf fun _ _ =>
    .operand reads_takeHalf fun _ _ => .ok rfl rfl) <|
  .ite (.operand reads_takeEp fun _ _ => .operand reads_takeData fun _ hd => .ok (decide_eq_true hd) rfl) <|
  .ite (.operand reads_takeHalf fun _ _ => .operand reads_takeHalf fun _ _ => .ok rfl rfl) <|
  .ite (.operand reads_takeDir fun _ _ => .operand reads_takeEp fun _ _ => .ok rfl rfl) <|
  .ite (.ok rfl rfl) <|
  .ite (.operand reads_takeEp fun _ _ => .ok rfl rfl) <|
  .ite (.operand reads_takeEp fun _ _ => .ok rfl rfl) <|
  .ite (.ok rfl rfl) <|
  .ite (.operand reads_takeByte fun _ _ => .ok rfl rfl) <|
  .error _

/-- The decoder of each format gives well-formed operations of the format, and does not read past their records. -/
theorem decode_decodes (fmt : Format) : Decodes fmt (decode fmt) := by
  cases fmt with
  | setup =>
    exact .operand reads_takePacket fun sp _ => .ok (selectRow_wellFormed sp) (selectRow_format sp)
  | event =>
    rintro (_ | ⟨b, rest⟩) i h
    · cases h
    · exact decodeEvent_decodes (b.extractLsb' 0 4) rest i h
  | call =>
    rintro (_ | ⟨id, ops⟩) i h
    · cases h
    · exact decodeCall_decodes id ops i h

theorem decodeEvent_unassigned : ∀ id : BitVec 4, 8 < id.toNat → decodeEvent id = .error .unassignedEvent := by decide

theorem decodeCall_unassigned {id : Byte} (h : 0x19 < id.toNat) (ops : List Byte) :
    decodeCall id ops = .error .unassignedCall := by
  have hne (k : Byte) (hk : k.toNat ≤ 0x19) : id ≠ k := by
    rintro rfl
    omega
  simp [decodeCall, hne]

/-- Every row's round trip. -/
theorem roundTrip : ∀ i : Instr, RoundTrip.Statement i
  | .getStatus sp => RoundTrip.getStatus sp
  | .clearFeature sp => RoundTrip.clearFeature sp
  | .setFeature sp => RoundTrip.setFeature sp
  | .setAddress sp => RoundTrip.setAddress sp
  | .getDescriptor sp => RoundTrip.getDescriptor sp
  | .setDescriptor sp => RoundTrip.setDescriptor sp
  | .getConfiguration sp => RoundTrip.getConfiguration sp
  | .setConfiguration sp => RoundTrip.setConfiguration sp
  | .getInterface sp => RoundTrip.getInterface sp
  | .setInterface sp => RoundTrip.setInterface sp
  | .stdOther sp => RoundTrip.stdOther sp
  | .setLineCoding sp => RoundTrip.setLineCoding sp
  | .getLineCoding sp => RoundTrip.getLineCoding sp
  | .setControlLineState sp => RoundTrip.setControlLineState sp
  | .sendBreak sp => RoundTrip.sendBreak sp
  | .classOther sp => RoundTrip.classOther sp
  | .classOtherIf sp => RoundTrip.classOtherIf sp
  | .vendorReserved sp => RoundTrip.vendorReserved sp
  | .irqInvoke => RoundTrip.irqInvoke
  | .evReady => RoundTrip.evReady
  | .evEp0DataDone => RoundTrip.evEp0DataDone
  | .evEp0Setup => RoundTrip.evEp0Setup
  | .evEpData => RoundTrip.evEpData
  | .evEndEpOut0 => RoundTrip.evEndEpOut0
  | .evEndEpOut1 => RoundTrip.evEndEpOut1
  | .evEndEpOut2 => RoundTrip.evEndEpOut2
  | .evEndEpOut3 => RoundTrip.evEndEpOut3
  | .configure => RoundTrip.configure
  | .writeByte b => RoundTrip.writeByte b
  | .writeByteSpin => RoundTrip.writeByteSpin
  | .dtr => RoundTrip.dtr
  | .rts => RoundTrip.rts
  | .decodeSetup => RoundTrip.decodeSetup
  | .dispatchSetup sp => RoundTrip.dispatchSetup sp
  | .stallEp0 => RoundTrip.stallEp0
  | .statusStage => RoundTrip.statusStage
  | .initEndpoint n => RoundTrip.initEndpoint n
  | .lineCodingComplete => RoundTrip.lineCodingComplete
  | .checkShouldReset => RoundTrip.checkShouldReset
  | .getDescriptorSelect sp => RoundTrip.getDescriptorSelect sp
  | .respond sp d => RoundTrip.respond sp d
  | .enterCs => RoundTrip.enterCs
  | .enterCsIrq => RoundTrip.enterCsIrq
  | .exitCs => RoundTrip.exitCs
  | .sendViaEpIn n buf off cnt => RoundTrip.sendViaEpIn n buf off cnt
  | .sendUsbPacket n data => RoundTrip.sendUsbPacket n data
  | .sendContinuation off rem => RoundTrip.sendContinuation off rem
  | .dmaStart dir n => RoundTrip.dmaStart dir n
  | .startEp0OutRead => RoundTrip.startEp0OutRead
  | .bulkOutDone n => RoundTrip.bulkOutDone n
  | .bulkOutDeliver n => RoundTrip.bulkOutDeliver n
  | .dmaComplete => RoundTrip.dmaComplete
  | .ringPush b => RoundTrip.ringPush b

end Sys2Proof.Laws

namespace Sys2Proof.Machine

/-! ## Records that name no row (R97, log 3) -/

/-- A record that names no row stops the machine with what is wrong with it. -/
theorem runRecord_of_decode_error {s : State} {fmt : Format} {bytes : List Byte} {e : DecodeError}
    (h : decode fmt bytes = .error e) : runRecord s fmt bytes = .fault (.badRecord e) := by
  simp only [runRecord, h]

/-- A step whose turn is a record that names no row. -/
theorem step_badRecord {s : State} {fmt : Format} {bytes : List Byte} {rest : List Turn} {e : DecodeError}
    (hs : s.sched = .record fmt bytes :: rest) (h : decode fmt bytes = .error e) :
    step s = .fault (.badRecord e) := by
  rw [step_of_sched_cons hs, takeTurn_record, runRecord_of_decode_error h]

/-! ## The selected row and the dispatcher (R116, R140, R170) -/

/-- One test that selects both the row and the request. -/
theorem exec_ite {c : Prop} [Decidable c] {s : State} {i i' : Instr} {f f' : Flow Bool}
    (h : exec i s = .next f.returning) (h' : exec i' s = .next f'.returning) :
    exec (if c then i else i') s = .next (if c then f else f').returning := by
  split
  · exact h
  · exact h'

/-- The standard row of a packet does what `standardRequest` does. -/
theorem exec_selectStandard (sp : SetupPacket) (s : State) :
    exec (selectStandard sp) s = .next (standardRequest s sp).returning :=
  exec_ite rfl <| exec_ite rfl <| exec_ite rfl <| exec_ite rfl <| exec_ite rfl <| exec_ite rfl <| exec_ite rfl <|
    exec_ite rfl <| exec_ite rfl <| exec_ite rfl rfl

/-- The class row of a class packet does what `classRequest` does. -/
theorem exec_selectClass {sp : SetupPacket} (ht : sp.typeBits = 1#2) (s : State) :
    exec (selectClass sp) s = .next (classRequest s sp).returning := by
  rw [classRequest, if_pos ht]
  exact exec_ite rfl <| exec_ite rfl <| exec_ite rfl <| exec_ite rfl rfl

theorem classRequest_other {sp : SetupPacket} (ht : sp.typeBits ≠ 1#2) (s : State) :
    classRequest s sp = .go s false := if_neg ht

/-- The row of a packet does what DISPATCH_SETUP does with it. -/
theorem exec_selectRow (sp : SetupPacket) (s : State) :
    exec (selectRow sp) s = .next (dispatchSetup s sp).returning := by
  unfold selectRow dispatchSetup
  by_cases h0 : sp.typeBits = 0#2
  · rw [if_pos h0, if_pos h0]
    exact exec_selectStandard sp s
  · rw [if_neg h0, if_neg h0]
    by_cases h1 : sp.typeBits = 1#2
    · rw [if_pos h1]
      by_cases hi : sp.index = Config.ifComm
      · rw [if_pos hi, if_pos hi]
        exact exec_selectClass h1 s
      · rw [if_neg hi, if_neg hi]
        rfl
    · rw [if_neg h1, classRequest_other h1, ite_self]
      rfl

/-! ## Responses of one packet (R190) -/

/-- A control response of at most one packet, with nothing in flight. -/
theorem sendUsbPacket_sentWhole {s : State} {data : List Byte} (hd : s.dma = none) (h : data.length ≤ 64) :
    Claims.SentWhole s (sendUsbPacket s .ep0 data) data := by
  refine ⟨s.mem.storeAll .ep0In 0 data, wrote_storeAll s.mem ?_, sendControl_one s hd h⟩
  simp only [capacity, Config.ctrlInBuf]
  omega

/-! ## The feature requests (R87, R142, R143) -/

/-- Bit `j` of a mask once the bit of an endpoint is written. -/
theorem getLsbD_writeEpBit (mask : BitVec 4) (n : Ep) (v : Bool) {j : Nat} (hj : j < 4) :
    (if v then setEpBit mask n else clearEpBit mask n).getLsbD j = if j = epNum n then v else mask.getLsbD j := by
  have h : ∀ (mask : BitVec 4) (v : Bool) (j : Fin 4),
      (if v then setEpBit mask n else clearEpBit mask n).getLsbD j = if j = epNum n then v else mask.getLsbD j := by
    cases n <;> decide
  exact h mask v ⟨j, hj⟩

theorem endpoint_toNat (sp : SetupPacket) : sp.endpoint.toNat = sp.index.toNat % 16 := by
  simp [SetupPacket.endpoint]

/-- The selector says which field is written: remote wakeup, the halt flag of an endpoint below `NUM_EP`, or none. -/
theorem featureDev_featureWritten (dev : DeviceState) (sp : SetupPacket) (v : Bool) :
    Claims.FeatureWritten sp dev (featureDev dev sp v) v := by
  refine ⟨fun h1 => by rw [featureDev, if_pos h1], fun h0 => ?_, fun h0 h1 => by rw [featureDev, if_neg h1, if_neg h0]⟩
  have hne : sp.valueLow ≠ 1#8 := by
    rw [h0]
    decide
  rw [featureDev, if_neg hne, if_pos h0, ← endpoint_toNat]
  obtain ⟨n, hn, hnum⟩ | ⟨hn, hbig⟩ := epOfNibble_cases sp.endpoint
  · rw [hn, ← hnum]
    exact ⟨_, rfl, fun j hj => getLsbD_writeEpBit _ n v hj⟩
  · rw [hn]
    exact ⟨dev.endpointHaltFlags, rfl, fun j hj => (if_neg (by omega)).symm⟩

/-! ## The other requests (R94, R148, R173) -/

theorem setConfiguration_other {sp : SetupPacket} (h : sp.requestType.toNat % 32 ≠ 0) (s : State) :
    setConfiguration s sp = .go s false := by
  refine if_neg fun hrec => h ?_
  simpa [SetupPacket.recipient] using congrArg BitVec.toNat hrec

theorem lineStateOf_eq (v : Byte) : lineStateOf v = BitVec.ofNat 2 v.toNat :=
  BitVec.eq_of_toNat_eq (by simp [lineStateOf])

end Sys2Proof.Machine

namespace Sys2Proof.Claims

open Sys2Proof.Machine Sys2Proof.Laws

/-- Settles O1: each row's record decodes to it (`roundTrip`), and the decoder does not read past the record
(`decode_decodes`). -/
theorem decodeOfEncodeIsIdentity : Obligations.DecodeOfEncodeIsIdentity := by
  unfold Obligations.DecodeOfEncodeIsIdentity
  intro i more hwf
  obtain ⟨-, hlonger⟩ := decode_decodes i.format _ i (roundTrip i hwf)
  exact hlonger more

/-- Settles O2: what every decoder gives (`decode_decodes`), for a packet the row it selects (`selectRow_wellFormed`). -/
theorem decodedOperationsAreWellFormed : Obligations.DecodedOperationsAreWellFormed := by
  unfold Obligations.DecodedOperationsAreWellFormed
  intro fmt bytes i h
  exact (decode_decodes fmt bytes i h).1

/-- Settles O24: the packet's record decodes to the row it selects, and that row does what the dispatcher does
(`exec_selectRow`). -/
theorem dispatchAgreesWithDecoding : Obligations.DispatchAgreesWithDecoding := by
  unfold Obligations.DispatchAgreesWithDecoding
  intro sp s
  exact ⟨selectRow sp, _, decode_encodePacket sp, exec_selectRow sp s, rfl⟩

/-- Settles O3: the decoder run on each record. -/
theorem sampleRecordsDecode : Obligations.SampleRecordsDecode := by
  unfold Obligations.SampleRecordsDecode
  decide

/-- Settles O5: no test of an assigned id meets such a record (`decodeEvent_unassigned`, `decodeCall_unassigned`). -/
theorem unassignedRecordsStop : Obligations.UnassignedRecordsStop := by
  unfold Obligations.UnassignedRecordsStop
  intro s id ops rest
  refine ⟨fun hid hs => ?_, fun hid hs => step_badRecord hs (decodeCall_unassigned hid ops)⟩
  have hlow : (id.extractLsb' 0 4).toNat = id.toNat % 16 := by simp
  exact step_badRecord hs (decodeEvent_unassigned (id.extractLsb' 0 4) (hlow ▸ hid))

/-- Settles O28: the reply is one packet (`sendUsbPacket_sentWhole`), its flag as `statusFlag_endpoint` and
`statusFlag_other` say. -/
theorem getStatusReportsHaltFlag : Obligations.GetStatusReportsHaltFlag := by
  unfold Obligations.GetStatusReportsHaltFlag
  intro sp s hd
  refine ⟨_, _, sendUsbPacket_sentWhole hd (by simp), rfl, ?_, ?_⟩
  · intro h
    rw [statusFlag_endpoint h]
  · intro h
    rw [statusFlag_other h]
    rfl

/-- Settles O29: what the selector makes of the device state (`featureDev_featureWritten`). -/
theorem featureAndInterfaceRequests : Obligations.FeatureAndInterfaceRequests := by
  unfold Obligations.FeatureAndInterfaceRequests
  intro sp s
  exact ⟨⟨_, featureDev_featureWritten s.ctx.dev sp false, rfl⟩,
    ⟨_, featureDev_featureWritten s.ctx.dev sp true, rfl⟩, rfl⟩

/-- Settles O33: the rows write the returned value alone; SET_CONFIGURATION by `setConfiguration_other`. -/
theorem requestsThatOnlyReturn : Obligations.RequestsThatOnlyReturn := by
  unfold Obligations.RequestsThatOnlyReturn
  intro sp s
  refine ⟨rfl, rfl, rfl, rfl, fun h => ?_⟩
  simp only [exec, execSetConfiguration, setConfiguration_other h]
  rfl

/-- Settles O36: the baud rate is its four bytes (`toNat_eq_bytes`), and the seven bytes are one packet. -/
theorem getLineCodingIsBitExact : Obligations.GetLineCodingIsBitExact := by
  unfold Obligations.GetLineCodingIsBitExact
  intro sp s hd
  exact ⟨_, _, _, _, _, toNat_eq_bytes _, sendUsbPacket_sentWhole hd (by simp), rfl⟩

/-- Settles O38: the hook is called with the new line information, and returns or resets (`checkShouldReset_cases`). -/
theorem setControlLineStateStoresTwoBits : Obligations.SetControlLineStateStoresTwoBits := by
  unfold Obligations.SetControlLineStateStoresTwoBits
  rintro sp s l rfl
  simp only [exec, execSetControlLineState, setControlLineState, lineStateOf_eq]
  obtain hhook | hhook :=
    checkShouldReset_cases (s.setLine { s.ctx.line with lineState := BitVec.ofNat 2 sp.valueLow.toNat })
  · refine .inl ?_
    rw [hhook]
    simp [State.emit, State.nextFree, State.setLine, State.setCtx, State.setRet, triggerStatus]
  · refine .inr ?_
    rw [hhook]
    rfl

end Sys2Proof.Claims

/-! SUPPORT and PROOFS of 40_dispatcher.md: what each phase of the dispatcher does where it is enabled, that a request
leaves `ret` to the row that ran it, and ten turns of `IRQ` with no flag set. -/

namespace Sys2Proof.Machine

/-! ## Flags (R32, R67) -/

theorem Events.set_get (e : Events) (f : EventFlag) : e.set f (e.get f) = e := by
  cases f with
  | endEpOut n => cases n <;> rfl
  | endEpIn n => cases n <;> rfl
  | _ => rfl

section

variable {s : State} {p : IrqPhase} {n : Ep}

/-- Clearing a flag that is clear changes nothing. -/
theorem setEvent_false_of_clear {f : EventFlag} (h : s.reg.events.get f = false) : s.setEvent f false = s := by
  rw [State.setEvent, ← h, Events.set_get]
  rfl

/-! ## The event of the dispatcher's position (R110, R114, R118, R119) -/

@[simp] theorem Flow.thenPhase_go (s : State) (p : IrqPhase) : (Flow.go s ()).thenPhase p = s.setPhase p := rfl

@[simp] theorem Flow.thenPhase_halt (s : State) (p : IrqPhase) : (Flow.halt s).thenPhase p = s := rfl

theorem irqAt_of_atPhase (h : Claims.AtPhase s p) (q : IrqPhase) : irqAt s q = decide (p = q) := by
  obtain ⟨hp, hh⟩ := h
  simp [irqAt, hp, hh]

/-- A phase event at its phase. -/
theorem enabled_atPhase (h : Claims.AtPhase s p) (r r' : Result) : (if irqAt s p = true then r else r') = r :=
  if_pos (irqAt_iff.mpr h)

theorem exec_evReady (h : Claims.AtPhase s .a) : exec .evReady s = .next ((phaseA s).setPhase .b) :=
  enabled_atPhase h _ _

theorem exec_evEp0DataDone (h : Claims.AtPhase s .b) : exec .evEp0DataDone s = .next ((phaseB s).setPhase .c) :=
  enabled_atPhase h _ _

theorem exec_evEp0Setup (h : Claims.AtPhase s .c) : exec .evEp0Setup s = .next ((phaseC s).thenPhase .d1) :=
  enabled_atPhase h _ _

theorem exec_evEpData_d1 (h : Claims.AtPhase s .d1) :
    exec .evEpData s = .next ((handleEpData (latchEpData s) .ep1).thenPhase .d2) :=
  enabled_atPhase h _ _

theorem exec_evEpData_d2 (h : Claims.AtPhase s .d2) :
    exec .evEpData s = .next ((handleEpData s .ep2).thenPhase .d3) := by
  simp [exec, execEvEpData, irqAt_of_atPhase h]

theorem exec_evEpData_d3 (h : Claims.AtPhase s .d3) :
    exec .evEpData s
      = .next (((handleEpData s .ep3).andThen fun t _ => .go (t.setSnap 0#32) ()).thenPhase .e0) := by
  simp [exec, execEvEpData, irqAt_of_atPhase h]

theorem exec_evEndEpOut0 (h : Claims.AtPhase s .e0) : exec .evEndEpOut0 s = .next ((phaseE s .ep0).thenPhase .e1) :=
  enabled_atPhase h _ _

theorem exec_evEndEpOut1 (h : Claims.AtPhase s .e1) : exec .evEndEpOut1 s = .next ((phaseE s .ep1).thenPhase .e2) :=
  enabled_atPhase h _ _

theorem exec_evEndEpOut2 (h : Claims.AtPhase s .e2) : exec .evEndEpOut2 s = .next ((phaseE s .ep2).thenPhase .e3) :=
  enabled_atPhase h _ _

/-- E(3) ends in the interrupt return, which is the phase after it (R120). -/
theorem exec_evEndEpOut3 (h : Claims.AtPhase s .e3) : exec .evEndEpOut3 s = .next ((phaseE s .ep3).thenPhase .idle) :=
  enabled_atPhase h _ _

/-! ## The phases without their flag (R110) -/

theorem phaseA_quiet (h : s.reg.events.usbEvent = false) : phaseA s = s := if_neg (Bool.eq_false_iff.mp h)

theorem phaseB_quiet (h : s.reg.events.ep0DataDone = false) : phaseB s = s := if_neg (Bool.eq_false_iff.mp h)

theorem phaseC_quiet (h : s.reg.events.ep0Setup = false) : phaseC s = .go s () := if_neg (Bool.eq_false_iff.mp h)

theorem latchEpData_quiet (h : s.reg.events.epData = false) : latchEpData s = s.setSnap 0#32 :=
  if_neg (Bool.eq_false_iff.mp h)

theorem phaseE_quiet (h : s.reg.events.endEpOut.get n = false) : phaseE s n = .go s () :=
  if_neg (Bool.eq_false_iff.mp h)

/-! ## Phases A and B with their flag (R112, R113) -/

/-- Bus-ready without the READY cause: the flag alone is cleared. -/
theorem phaseA_otherCause (h : s.reg.events.usbEvent = true) (hc : s.reg.eventCause.ready = false) :
    phaseA s = s.setEvent .usbEvent false := by
  simp [phaseA, h, hc]

theorem phaseA_ready (h : s.reg.events.usbEvent = true) (hc : s.reg.eventCause.ready = true) :
    phaseA s = busReady (s.setEvent .usbEvent false) := by
  simp [phaseA, h, hc]

theorem phaseB_lineCoding (h : s.reg.events.ep0DataDone = true) (hl : s.ctx.lineCodingPending = true) :
    phaseB s = startEp0OutRead (s.setEvent .ep0DataDone false) := by
  simp [phaseB, dataDone, h, hl]

theorem phaseB_continuation {c : Pending} (h : s.reg.events.ep0DataDone = true)
    (hl : s.ctx.lineCodingPending = false) (hc : s.ctx.pending = some c) :
    phaseB s = sendContinuation (s.setEvent .ep0DataDone false) c.offset c.remaining := by
  simp [phaseB, dataDone, h, hl, hc]

theorem phaseB_status (h : s.reg.events.ep0DataDone = true) (hl : s.ctx.lineCodingPending = false)
    (hc : s.ctx.pending = none) : phaseB s = triggerStatus (s.setEvent .ep0DataDone false) := by
  simp [phaseB, dataDone, h, hl, hc]

/-! ## Phase D by direction (R118, D37, D38) -/

/-- With nothing in the snapshot no endpoint has anything to do. -/
theorem handleEpData_quiet (h : s.epDataSnap = 0#32) (n : Ep) : handleEpData s n = .go s () := by
  have hout : epOutDone 0#32 n = false := by cases n <;> rfl
  have hin : epInDone 0#32 n = false := by cases n <;> rfl
  simp [handleEpData, h, hout, hin]

/-- At the entry of D(1) with the event: the snapshot is EPDATASTATUS, whose bits are all cleared (R67). -/
theorem latchEpData_event (h : s.reg.events.epData = true) :
    latchEpData s
      = { s with
        reg := { s.reg with events := { s.reg.events with epData := false }, epDataStatus := 0#32 }
        epDataSnap := s.reg.epDataStatus } := by
  have hcleared : writeOneToClear s.reg.epDataStatus s.reg.epDataStatus = 0#32 := by simp [writeOneToClear]
  rw [← hcleared]
  exact if_pos h

/-- An IN endpoint: its IN-done bit releases the guard, its OUT-done bit is ignored. -/
theorem handleEpData_dirIn (h : (s.ctx.epTable.get n).dir = .dirIn) :
    handleEpData s n = .go (s.setDmaBusy (s.ctx.dmaBusy && !epInDone s.epDataSnap n)) () := by
  cases hin : epInDone s.epDataSnap n with
  | false =>
    have hsame : s.setDmaBusy s.ctx.dmaBusy = s := rfl
    simp [handleEpData, h, hin, hsame]
  | true => simp [handleEpData, h, hin, exitCriticalSection]

theorem bulkOutDone_held (h : s.ctx.dmaBusy = true) (n : Ep) :
    bulkOutDone s n = .halt (s.setHang (some .irqSpinDeadlock)) := by
  simp [bulkOutDone, enterCriticalSectionIrq, h]

theorem bulkOutDone_free (h : s.ctx.dmaBusy = false) (n : Ep) :
    bulkOutDone s n
      = .go (dmaStart (programOut (s.setDmaBusy true) n ⟨outBuf n, 0#16⟩ ((s.reg.sizeEpOut.get n).setWidth 16))
          .dirOut n) () := by
  simp [bulkOutDone, enterCriticalSectionIrq, h]

/-- An OUT endpoint: its OUT-done bit starts the bulk OUT handling, its IN-done bit is ignored. -/
theorem handleEpData_dirOut (h : (s.ctx.epTable.get n).dir = .dirOut) :
    handleEpData s n = if epOutDone s.epDataSnap n = true then bulkOutDone s n else .go s () := by
  cases hout : epOutDone s.epDataSnap n with
  | false => simp [handleEpData, h, hout]
  | true =>
    cases hbusy : s.ctx.dmaBusy with
    | false => simp [handleEpData, h, hout, bulkOutDone_free hbusy]
    | true => simp [handleEpData, h, hout, bulkOutDone_held hbusy]

/-! ## Phase E by endpoint (R119) -/

/-- Phase E without the flag, as if the flag were cleared. -/
theorem phaseE_clear (h : s.reg.events.endEpOut.get n = false) :
    phaseE s n = .go (s.setEvent (.endEpOut n) false) () := by
  rw [phaseE_quiet h, setEvent_false_of_clear (f := .endEpOut n) h]

/-- Phase E of an endpoint that has nothing to do at its end of OUT clears the flag, whether or not it was set. -/
theorem phaseE_ignored (h0 : n = .ep0 → s.ctx.lineCodingPending = false) (h2 : n ≠ .ep2) :
    phaseE s n = .go (s.setEvent (.endEpOut n) false) () := by
  cases h : s.reg.events.endEpOut.get n with
  | false => exact phaseE_clear h
  | true =>
    have hcontrol : ¬ (n = .ep0 ∧ s.ctx.lineCodingPending = true) := fun ⟨hn, hl⟩ => by simp [h0 hn] at hl
    simp [phaseE, h, h2, hcontrol]

/-- Phase E(0) with the flag and a line-coding transfer pending completes the transfer (R175). -/
theorem phaseE_ep0 (h : s.reg.events.endEpOut.e0 = true) (hl : s.ctx.lineCodingPending = true) :
    phaseE s .ep0 = lineCodingComplete (s.setEvent (.endEpOut .ep0) false) := by
  have hflag : s.reg.events.endEpOut.get .ep0 = true := h
  simp only [phaseE, hflag, State.setEvent_ctx, hl]
  cases lineCodingComplete (s.setEvent (.endEpOut .ep0) false) <;> rfl

/-- Phase E(2) with the flag delivers the bulk OUT data (R195). -/
theorem phaseE_ep2 (h : s.reg.events.endEpOut.e2 = true) :
    phaseE s .ep2 = .go (bulkOutDeliver (s.setEvent (.endEpOut .ep2) false) .ep2) () :=
  if_pos h

end

/-! ## Flows that end in a reset only (R176, R290) -/

/-- A flow that goes on in a state of which `P` holds; it ends its step by a system reset only. -/
def Flow.GoesOrResets {α : Type} (P : State → Prop) : Flow α → Prop
  | .go t _ => P t
  | .halt t => ∃ u, t = systemReset u

section

variable {P Q : State → Prop} {α β : Type} {f g : Flow α}

theorem Flow.GoesOrResets.ite {c : Prop} [Decidable c] (hf : f.GoesOrResets P) (hg : g.GoesOrResets P) :
    (if c then f else g).GoesOrResets P := by
  split
  · exact hf
  · exact hg

theorem Flow.GoesOrResets.andThen {k : State → α → Flow β} (h : f.GoesOrResets P)
    (hk : ∀ t a, P t → (k t a).GoesOrResets Q) : (f.andThen k).GoesOrResets Q := by
  cases f with
  | go t a => exact hk t a h
  | halt t => exact h

/-- After such a flow from a phase the dispatcher is at Idle by the reset only, which ends the invocation (log 30). -/
theorem Flow.GoesOrResets.thenPhase_eq {f : Flow Unit} {q : IrqPhase}
    (h : f.GoesOrResets fun t => t.ctx.irqPhase = q) (hq : q ≠ .idle) (p : IrqPhase) :
    f.thenPhase p = if f.state.ctx.irqPhase = .idle then f.state else f.state.setPhase p := by
  cases f with
  | go t _ =>
    have hphase : t.ctx.irqPhase ≠ .idle := by rwa [show t.ctx.irqPhase = q from h]
    exact (if_neg hphase).symm
  | halt t =>
    obtain ⟨u, rfl⟩ := h
    rfl

theorem checkShouldReset_goesOrResets {s : State} (h : P (s.emit (.hook s.ctx.line)).nextFree) :
    (checkShouldReset s).GoesOrResets P := by
  obtain hgo | hhalt := checkShouldReset_cases s
  · rw [hgo]
    exact h
  · rw [hhalt]
    exact ⟨_, rfl⟩

end

/-- The end of a line-coding transfer leaves the dispatcher where it is, or the hook resets the system. -/
theorem lineCodingComplete_goesOrResets (s : State) :
    (lineCodingComplete s).GoesOrResets fun t => t.ctx.irqPhase = s.ctx.irqPhase := by
  refine .andThen (P := fun t => t.ctx.irqPhase = s.ctx.irqPhase) (.ite ?_ rfl) fun t _ ht => ht
  exact checkShouldReset_goesOrResets (by simp)

/-! ## The returned value inside a phase (log 7)

A request leaves `ret` alone: the row that ran it, or phase C, uses the value. -/

section

variable (s : State)

@[simp] theorem sendControl_ret (data : List Byte) : (sendControl s data).ret = s.ret := by
  unfold sendControl
  split
  · rfl
  · split <;> simp

@[simp] theorem sendUsbPacket_ep0_ret (data : List Byte) : (sendUsbPacket s .ep0 data).ret = s.ret :=
  sendControl_ret s data

@[simp] theorem initEndpoint_ret (n : Ep) : (initEndpoint s n).ret = s.ret := by
  unfold initEndpoint
  split <;> rfl

/-- A request from `s` that goes on with `ret` as it was. -/
abbrev KeepsRet (f : Flow Bool) : Prop := f.GoesOrResets fun t => t.ret = s.ret

theorem response_keepsRet (data : List Byte) : KeepsRet s (.go (sendUsbPacket s .ep0 data) true) :=
  sendUsbPacket_ep0_ret s data

theorem getDescriptor_keepsRet (sp : SetupPacket) : KeepsRet s (getDescriptor s sp) := by
  unfold getDescriptor
  split
  · exact response_keepsRet s _
  · exact triggerStatus_ret s
  · exact rfl

theorem setConfiguration_keepsRet (sp : SetupPacket) : KeepsRet s (setConfiguration s sp) := by
  refine .ite ?_ rfl
  simp [Flow.GoesOrResets]

theorem setControlLineState_keepsRet (sp : SetupPacket) : KeepsRet s (setControlLineState s sp) :=
  .andThen (P := fun t => t.ret = s.ret) (checkShouldReset_goesOrResets rfl) fun _ _ ht => ht

/-- The rows of R140, in the order of their codes. -/
theorem standardRequest_keepsRet (sp : SetupPacket) : KeepsRet s (standardRequest s sp) :=
  .ite (response_keepsRet s _) <| .ite rfl <| .ite rfl <| .ite rfl <| .ite (getDescriptor_keepsRet s sp) <|
    .ite rfl <| .ite (response_keepsRet s _) <| .ite (setConfiguration_keepsRet s sp) <|
    .ite (response_keepsRet s _) <| .ite rfl rfl

/-- The rows of R170, in the order of their codes. -/
theorem classRequest_keepsRet (sp : SetupPacket) : KeepsRet s (classRequest s sp) :=
  .ite (.ite rfl <| .ite (response_keepsRet s _) <| .ite (setControlLineState_keepsRet s sp) <| .ite rfl rfl) rfl

theorem dispatchSetup_keepsRet (sp : SetupPacket) : KeepsRet s (dispatchSetup s sp) :=
  .ite (standardRequest_keepsRet s sp) <| .ite (classRequest_keepsRet s sp) rfl

end

/-! ## Phase C with a setup (R114) -/

/-- The state in which phase C runs the request: the flag is cleared, an outstanding transfer abandoned (D22). -/
def setupTaken (s : State) : State := ((s.setEvent .ep0Setup false).setPending none).setLineCodingPending false

/-- How phase C ends, from the state `u` after the row that ran: on the value the row returned, or by a reset, which
leaves none (R114, R117, R176). -/
theorem handleSetup_thenPhase {s u : State} {p : IrqPhase}
    (hu : (dispatchSetup (setupTaken s) s.reg.setup.packet).returning = u) :
    (handleSetup s).thenPhase p
      = if u.ret = .bool true then (u.setPhase p).setRet s.ret
        else if u.ret = .bool false then triggerStall ((u.setPhase p).setRet s.ret)
        else u := by
  have hhandle : handleSetup s
      = (dispatchSetup (setupTaken s) s.reg.setup.packet).andThen fun t ok =>
          .go (if ok then t else triggerStall t) () := rfl
  have hkeeps := dispatchSetup_keepsRet (setupTaken s) s.reg.setup.packet
  rw [hhandle]
  cases hd : dispatchSetup (setupTaken s) s.reg.setup.packet with
  | go t ok =>
    rw [hd] at hkeeps hu
    have hret : t.ret = s.ret := hkeeps
    subst hu
    rw [← hret]
    cases ok with
    | true => rfl
    | false => rfl
  | halt t =>
    rw [hd] at hkeeps hu
    obtain ⟨v, rfl⟩ := hkeeps
    subst hu
    rfl

/-! ## An invocation with no flag set (R110, R111) -/

/-- No flag the dispatcher polls is set. -/
structure NoFlag (e : Events) : Prop where
  usbEvent : e.usbEvent = false
  ep0DataDone : e.ep0DataDone = false
  ep0Setup : e.ep0Setup = false
  epData : e.epData = false
  endEpOut : e.endEpOut = .all false

/-- The position and the snapshot after a turn of `IRQ` with no flag set. -/
def quietTurn : IrqPhase × BitVec 32 → IrqPhase × BitVec 32
  | (.idle, v) => (.idle, v)
  | (.a, v) => (.b, v)
  | (.b, v) => (.c, v)
  | (.c, v) => (.d1, v)
  | (.d1, _) => (.d2, 0#32)
  | (.d2, v) => (.d3, v)
  | (.d3, _) => (.e0, 0#32)
  | (.e0, v) => (.e1, v)
  | (.e1, v) => (.e2, v)
  | (.e2, v) => (.e3, v)
  | (.e3, v) => (.idle, v)

/-- In D(2) and D(3) the snapshot is zero. -/
def SnapIsZero (p : IrqPhase × BitVec 32) : Prop := p.1 = .d2 ∨ p.1 = .d3 → p.2 = 0#32

theorem SnapIsZero.quietTurn {p : IrqPhase × BitVec 32} (h : SnapIsZero p) : SnapIsZero (quietTurn p) := by
  obtain ⟨p, v⟩ := p
  cases p with
  | d1 => exact fun _ => rfl
  | d2 => exact fun _ => h (.inl rfl)
  | _ => exact fun hd => by simp [Machine.quietTurn] at hd

/-- `s` with the turns `turns` to come, at a position and with a snapshot. -/
def quietAt (s : State) (turns : List Turn) (p : IrqPhase × BitVec 32) : State :=
  { s with ctx := { s.ctx with irqPhase := p.1 }, epDataSnap := p.2, sched := turns }

theorem irqLine_quiet {r : Regs} (h : NoFlag r.events) : irqLine r = false := by
  obtain ⟨ha, hb, hc, hd, he⟩ := h
  simp [irqLine, ha, hb, hc, hd, he, PerEp.all]

/-- Phase by phase: the operation of the position is a no-op that moves the dispatcher on. -/
theorem exec_irqOperation_quiet {s : State} (hh : s.hang = none) (hflags : NoFlag s.reg.events)
    (hsnap : SnapIsZero (s.ctx.irqPhase, s.epDataSnap)) :
    exec (irqOperation s.ctx.irqPhase) s = .next (quietAt s s.sched (quietTurn (s.ctx.irqPhase, s.epDataSnap))) := by
  have hend (n : Ep) : phaseE s n = .go s () :=
    phaseE_quiet (by rw [hflags.endEpOut, PerEp.get_all])
  cases hp : s.ctx.irqPhase with
  | idle =>
    have hline : mayInvoke s = false := by simp [mayInvoke, irqLine_quiet hflags]
    simp only [irqOperation, exec, execIrqInvoke, hline, quietTurn, quietAt, ← hp]
    rfl
  | a =>
    rw [irqOperation, exec_evReady ⟨hp, hh⟩, phaseA_quiet hflags.usbEvent]
    rfl
  | b =>
    rw [irqOperation, exec_evEp0DataDone ⟨hp, hh⟩, phaseB_quiet hflags.ep0DataDone]
    rfl
  | c =>
    rw [irqOperation, exec_evEp0Setup ⟨hp, hh⟩, phaseC_quiet hflags.ep0Setup]
    rfl
  | d1 =>
    rw [irqOperation, exec_evEpData_d1 ⟨hp, hh⟩, latchEpData_quiet hflags.epData, handleEpData_quiet rfl]
    rfl
  | d2 =>
    rw [irqOperation, exec_evEpData_d2 ⟨hp, hh⟩, handleEpData_quiet (hsnap (.inl hp))]
    rfl
  | d3 =>
    rw [irqOperation, exec_evEpData_d3 ⟨hp, hh⟩, handleEpData_quiet (hsnap (.inr hp))]
    rfl
  | e0 =>
    rw [irqOperation, exec_evEndEpOut0 ⟨hp, hh⟩, hend]
    rfl
  | e1 =>
    rw [irqOperation, exec_evEndEpOut1 ⟨hp, hh⟩, hend]
    rfl
  | e2 =>
    rw [irqOperation, exec_evEndEpOut2 ⟨hp, hh⟩, hend]
    rfl
  | e3 =>
    rw [irqOperation, exec_evEndEpOut3 ⟨hp, hh⟩, hend]
    rfl

/-- A run of the machine begins with a step. -/
theorem core_run_succ {s t : State} (h : step s = .next t) (k : Nat) :
    Sys2Proof.core.run (k + 1) s = Sys2Proof.core.run k t := by
  have hstep : Sys2Proof.core.step s = .next t := h
  simp only [Host.Core.run, hstep]

/-- One turn of `IRQ` with no flag set. -/
theorem step_quietAt {s : State} (hh : s.hang = none) (hflags : NoFlag s.reg.events) (turns : List Turn)
    {p : IrqPhase × BitVec 32} (hp : SnapIsZero p) :
    step (quietAt s (.irq :: turns) p) = .next (quietAt s turns (quietTurn p)) := by
  have hturn : step (quietAt s (.irq :: turns) p) = takeTurn (quietAt s turns p) .irq := step_of_sched_cons rfl
  rw [hturn, takeTurn_irq]
  exact exec_irqOperation_quiet (s := quietAt s turns p) hh hflags hp

/-- Any number of them. -/
theorem run_quietAt {s : State} (hh : s.hang = none) (hflags : NoFlag s.reg.events) (rest : List Turn) (k : Nat)
    {p : IrqPhase × BitVec 32} (hp : SnapIsZero p) :
    Sys2Proof.core.run k (quietAt s (List.replicate k .irq ++ rest) p) = .next (quietAt s rest (quietTurn^[k] p)) := by
  induction k generalizing p with
  | zero => rfl
  | succ k ih =>
    have hstep := step_quietAt hh hflags (List.replicate k .irq ++ rest) hp
    rw [List.replicate_succ, List.cons_append]
    exact (core_run_succ hstep k).trans (ih hp.quietTurn)

end Sys2Proof.Machine

namespace Sys2Proof.Claims

open Sys2Proof.Machine

/-- Settles O20: ten turns with no flag set (`run_quietAt`). -/
theorem quietInvocationReturnsToIdle : Obligations.QuietInvocationReturnsToIdle := by
  unfold Obligations.QuietInvocationReturnsToIdle
  rintro s rest ⟨hp, hh⟩ husb hdone hsetup hdata hend hsched
  have hstart : s = quietAt s (List.replicate 10 .irq ++ rest) (.a, s.epDataSnap) := by
    rw [quietAt, ← hp]
    exact congrArg (fun turns => { s with sched := turns }) hsched
  have hsnap : SnapIsZero (.a, s.epDataSnap) := by simp [SnapIsZero]
  have hrun := run_quietAt hh ⟨husb, hdone, hsetup, hdata, hend⟩ rest 10 hsnap
  rw [← hstart] at hrun
  exact hrun

/-- Settles O23: the setup registers' row does what the dispatcher does (`exec_selectRow`), and phase C ends on the value
it returned (`handleSetup_thenPhase`). -/
theorem setupPhaseRunsSelectedRequest : Obligations.SetupPhaseRunsSelectedRequest := by
  unfold Obligations.SetupPhaseRunsSelectedRequest
  intro s h
  constructor
  · intro hflag
    rw [exec_evEp0Setup h, phaseC_quiet hflag]
    rfl
  · intro hflag
    refine ⟨selectRow s.reg.setup.packet, _, rfl, exec_selectRow _ (setupTaken s), ?_⟩
    rw [exec_evEp0Setup h, phaseC, if_pos hflag, handleSetup_thenPhase rfl]
    rfl

/-- Settles O21: the flag and the READY cause decide between the three outcomes (R112). -/
theorem busReadyPhase : Obligations.BusReadyPhase := by
  unfold Obligations.BusReadyPhase
  intro s h
  rw [exec_evReady h]
  refine ⟨?_, ?_, ?_⟩
  · intro hflag
    rw [phaseA_quiet hflag]
    rfl
  · intro hflag hready
    rw [phaseA_otherCause hflag hready]
    rfl
  · intro hflag hready
    rw [phaseA_ready hflag hready]
    rfl

/-- Settles O22: the two transfer flags decide between the three tasks (R113, D17). -/
theorem dataDonePhase : Obligations.DataDonePhase := by
  unfold Obligations.DataDonePhase
  rintro s u h rfl
  rw [exec_evEp0DataDone h]
  refine ⟨?_, ?_, ?_, ?_⟩
  · intro hflag
    rw [phaseB_quiet hflag]
    rfl
  · intro hflag hline
    refine ⟨_, rfl, ?_⟩
    rw [phaseB_lineCoding hflag hline]
    rfl
  · intro hflag hline p hp
    refine ⟨_, rfl, ?_⟩
    rw [phaseB_continuation hflag hline hp]
    rfl
  · intro hflag hline hp
    rw [phaseB_status hflag hline hp]
    rfl

/-- Settles O25: endpoints 1 and 3 are IN (`handleEpData_dirIn`). -/
theorem epDataPhaseOfInEndpoints : Obligations.EpDataPhaseOfInEndpoints := by
  unfold Obligations.EpDataPhaseOfInEndpoints
  intro s htable
  constructor
  · intro h
    rw [exec_evEpData_d1 h]
    by_cases hflag : s.reg.events.epData = true
    · rw [if_pos hflag, handleEpData_dirIn (by rw [latchEpData_ctx, htable]; rfl), latchEpData_event hflag]
      rfl
    · rw [if_neg hflag, latchEpData_quiet (by simpa using hflag), handleEpData_quiet rfl]
      rfl
  · intro h
    rw [exec_evEpData_d3 h, handleEpData_dirIn (by rw [htable]; rfl)]
    rfl

/-- Settles O26: endpoint 2 is OUT (`handleEpData_dirOut`), and the guard decides whether its handling hangs. -/
theorem epDataPhaseOfBulkOut : Obligations.EpDataPhaseOfBulkOut := by
  unfold Obligations.EpDataPhaseOfBulkOut
  intro s htable h
  rw [exec_evEpData_d2 h, handleEpData_dirOut (by rw [htable]; rfl)]
  have hbit : epOutDone s.epDataSnap .ep2 = s.epDataSnap.getLsbD 18 := rfl
  rw [hbit]
  refine ⟨?_, ?_, ?_⟩
  · intro hclear
    rw [hclear]
    rfl
  · intro hset hheld
    rw [if_pos hset, bulkOutDone_held hheld]
    rfl
  · intro hset hfree
    refine ⟨_, congrArg (fun f => Host.Outcome.next (Flow.state f)) (bulkOutDone_free hfree .ep2), ?_⟩
    rw [if_pos hset, bulkOutDone_free hfree]
    rfl

/-- Settles O27, phase by phase; E(0) by `lineCodingComplete_goesOrResets`, since a reset alone leads to Idle there. -/
theorem endOfOutPhases : Obligations.EndOfOutPhases := by
  unfold Obligations.EndOfOutPhases
  intro s
  refine ⟨?_, ?_, ?_, ?_, ?_, ?_⟩
  · intro h hignored
    rw [exec_evEndEpOut0 h]
    obtain hclear | hline := hignored
    · rw [phaseE_clear (n := .ep0) hclear]
      rfl
    · rw [phaseE_ignored (fun _ => hline) (by decide)]
      rfl
  · intro h hflag hline
    refine ⟨_, rfl, ?_⟩
    have hphase : (s.setEvent (.endEpOut .ep0) false).ctx.irqPhase ≠ .idle := by
      obtain ⟨hp, -⟩ := h
      simp [hp]
    rw [exec_evEndEpOut0 h, phaseE_ep0 hflag hline, (lineCodingComplete_goesOrResets _).thenPhase_eq hphase]
    rfl
  · intro h
    rw [exec_evEndEpOut1 h, phaseE_ignored (n := .ep1) nofun nofun]
    rfl
  · intro h hclear
    rw [exec_evEndEpOut2 h, phaseE_quiet (n := .ep2) hclear]
    rfl
  · intro h hflag
    refine ⟨_, rfl, ?_⟩
    rw [exec_evEndEpOut2 h, phaseE_ep2 hflag]
    rfl
  · intro h
    rw [exec_evEndEpOut3 h, phaseE_ignored (n := .ep3) nofun nofun]
    rfl

/-- Settles O34: phase C runs the refused row and stalls on its value (`setupPhaseRunsSelectedRequest`). -/
theorem refusedRequestsStall : Obligations.RefusedRequestsStall := by
  unfold Obligations.RefusedRequestsStall
  intro sp s
  refine ⟨rfl, rfl, ?_⟩
  intro hdecode h hflag
  obtain ⟨-, hruns⟩ := setupPhaseRunsSelectedRequest s h
  obtain ⟨i, u, hi, hu, hexec⟩ := hruns hflag
  rw [hi] at hdecode
  have hu' : u = (setupTaken s).setRet (.bool false) := by
    obtain hrow | hrow := hdecode
    · cases hrow
      exact (Host.Outcome.next.inj hu).symm
    · cases hrow
      exact (Host.Outcome.next.inj hu).symm
  rw [hexec, hu']
  rfl

/-- Settles O39: each row is its one task. -/
theorem statusAndStallTasksOnly : Obligations.StatusAndStallTasksOnly := by
  unfold Obligations.StatusAndStallTasksOnly
  intro sp s
  exact ⟨rfl, rfl, rfl⟩

end Sys2Proof.Claims

namespace Sys2Proof.Claims

open Sys2Proof.Machine

/-- Settles O30: each row is the response of its one byte, which fits one packet (`sendUsbPacket_sentWhole`). -/
theorem configurationAndInterfaceReported : Obligations.ConfigurationAndInterfaceReported := by
  unfold Obligations.ConfigurationAndInterfaceReported
  intro sp s
  have hsent (b : Byte) (hd : s.dma = none) : SentWhole s (sendUsbPacket s .ep0 [b]) [b] :=
    sendUsbPacket_sentWhole hd (by simp)
  exact ⟨⟨_, rfl, rfl, hsent _⟩, ⟨_, rfl, rfl, hsent _⟩⟩

end Sys2Proof.Claims

namespace Sys2Proof.Claims

open Sys2Proof.Machine

/-- Settles O37: the row is two writes, the flag and `triggerRcvOut` of the data stage, and the value it returns. -/
theorem setLineCodingOpensDataStage : Obligations.SetLineCodingOpensDataStage := by
  unfold Obligations.SetLineCodingOpensDataStage
  intro sp s
  have hrow : exec (.setLineCoding sp) s =
      .next ((triggerRcvOut (s.setLineCodingPending true)).setRet (.bool true)) := rfl
  rw [hrow]
  rfl

/-- Settles O41: the row is the hook call alone, which returns or resets (`checkShouldReset_cases`). -/
theorem resetHookReturnsOrResets : Obligations.ResetHookReturnsOrResets := by
  unfold Obligations.ResetHookReturnsOrResets
  intro s
  simp only [exec, execCheckShouldReset]
  obtain hreturns | hresets := checkShouldReset_cases s
  · rw [hreturns]
    exact .inl rfl
  · rw [hresets]
    exact .inr rfl

end Sys2Proof.Claims

/-! SUPPORT and PROOFS of 43_endpoint_io_dma.md: a send as the start its registers describe, responses that fit their
buffer and responses that do not, what the step of `DMA` moves, and the guard as `IRQ` and `FG` meet it. -/

namespace Sys2Proof.Machine

/-! ## Starts, with the registers that describe them (R189, R192, R193) -/

/-- A start leaves the context alone, whether it is made or refused. -/
@[simp] theorem started_ctx (s : State) (dir : Dir) (n : Ep) (buf : BufId) (off cnt : Half) :
    (Claims.started s dir n buf off cnt).ctx = s.ctx := by
  unfold Claims.started
  split
  · rfl
  · split <;> rfl

/-- SEND_VIA_EP_IN: the registers are written, and the start they describe is made. -/
theorem sendViaEpIn_eq_started (s : State) (n : Ep) (ref : BufRef) (cnt : Half) :
    sendViaEpIn s n ref cnt = Claims.started (programIn s n ref cnt) .dirIn n ref.buf ref.off cnt := by
  simpa [sendViaEpIn, ptrOf, maxCntOf] using dmaStart_eq_started (programIn s n ref cnt) .dirIn n

/-- A start in the OUT direction of the region just programmed. -/
theorem dmaStart_programOut (s : State) (n : Ep) (ref : BufRef) (cnt : Half) :
    dmaStart (programOut s n ref cnt) .dirOut n
      = Claims.started (programOut s n ref cnt) .dirOut n ref.buf ref.off cnt := by
  simpa [ptrOf, maxCntOf] using dmaStart_eq_started (programOut s n ref cnt) .dirOut n

/-- SEND_CONTINUATION sends at most one packet, and what exceeds it is the continuation (R191). -/
theorem sendContinuation_eq (s : State) (off rem : Half) :
    sendContinuation s off rem
      = (sendViaEpIn s .ep0 ⟨.ep0In, off⟩ (BitVec.ofNat 16 (min rem.toNat 64))).setPending
          (if rem.toNat ≤ 64 then none else some ⟨off + 64#16, rem - 64#16⟩) := by
  have hmax : Config.maxPkt = 64 := rfl
  simp only [sendContinuation, hmax]
  by_cases hlast : rem.toNat ≤ 64
  · rw [if_pos hlast, if_pos (by omega)]
  · rw [if_neg hlast, if_neg (by omega), Nat.min_eq_right (by omega)]

/-! ## SEND_USB_PACKET and RESPOND (R190, R216) -/

section

variable {s : State} {data : List Byte}

/-- A control response that fits the EP0 IN buffer, with nothing in flight. -/
theorem sendUsbPacket_sent (hd : s.dma = none) (h : data.length ≤ 256) :
    Claims.Sent s (sendUsbPacket s .ep0 data) data := by
  by_cases hone : data.length ≤ 64
  · rw [Claims.Sent, if_pos hone]
    exact sendUsbPacket_sentWhole hd hone
  · rw [Claims.Sent, if_neg hone]
    exact ⟨_, wrote_storeAll s.mem (by rwa [Nat.zero_add]), sendControl_first s hd (Nat.lt_of_not_le hone) h⟩

/-- Data for a data endpoint that fits its buffer, with nothing in flight: one packet of all of it. -/
theorem sendUsbPacket_data {n : Ep} (hn : n ≠ .ep0) (hd : s.dma = none) (h : data.length ≤ capacity (inBuf n)) :
    sendUsbPacket s n data
      = (programIn (s.setMem (s.mem.storeAll (inBuf n) 0 data)) n ⟨inBuf n, 0#16⟩
          (BitVec.ofNat 16 data.length)).setDma
        (some ⟨.dirIn, n, inBuf n, 0#16, BitVec.ofNat 16 data.length⟩) := by
  have hbounds : (0#16).toNat + (BitVec.ofNat 16 data.length).toNat ≤ capacity (inBuf n) := by
    have hmod : data.length % 2 ^ 16 ≤ data.length := Nat.mod_le _ _
    rw [BitVec.toNat_ofNat, BitVec.toNat_ofNat]
    omega
  rw [sendUsbPacket, if_neg hn, sendData, if_neg (Nat.not_lt.mpr h), memWrite_free s hd]
  exact sendViaEpIn_free (s.setMem _) hd hbounds

/-- A response longer than its buffer is refused and sends nothing. -/
theorem sendUsbPacket_tooLong {n : Ep} (h : capacity (inBuf n) < data.length) :
    sendUsbPacket s n data = s.raise (.responseTooLong data.length) := by
  by_cases hn : n = .ep0
  · subst hn
    exact if_pos h
  · rw [sendUsbPacket, if_neg hn]
    exact if_pos h

/-! ## No request's response is too long (R190, R233, R265) -/

/-- A control response that fits records no ResponseTooLong, whatever is in flight. -/
theorem tooLong_mem_of_sendUsbPacket {k : Nat} (h : data.length ≤ 256)
    (hk : .responseTooLong k ∈ (sendUsbPacket s .ep0 data).faults) : .responseTooLong k ∈ s.faults := by
  cases hd : s.dma with
  | none =>
    have hsent := sendUsbPacket_sent hd h
    unfold Claims.Sent at hsent
    split at hsent
    · obtain ⟨m, -, ht⟩ := hsent
      rwa [ht] at hk
    · obtain ⟨m, -, ht⟩ := hsent
      rwa [ht] at hk
  | some x =>
    obtain ⟨m, fs, -, hfs, ht⟩ := sendUsbPacket_sentUnder hd (n := .ep0) h
    rw [ht] at hk
    simpa using (hfs _).mp hk

end

/-- A descriptor's data stage fits the EP0 IN buffer, whatever the OPEN strings are. -/
theorem selectDescriptor_data_length {t i : Byte} {d : List Byte} (h : selectDescriptor t i = .data d) :
    d.length ≤ 256 := by
  have hstring (text : List Byte) : (strDesc (Config.asciiParam text)).length ≤ 256 :=
    strDesc_eq _ ▸ stringBytes_asciiParam_length text
  unfold selectDescriptor at h
  split_ifs at h <;> cases h
  · simp [deviceDesc, le16]
  · simp [configSet, configDesc, iadDesc, ifCommDesc, cdcHeader, cdcCallMgmt, cdcAcm, cdcUnion, epIntInDesc,
      ifDataDesc, epBulkOutDesc, epBulkInDesc, le16]
  · simp [string0, le16]
  · exact hstring _
  · exact hstring _

@[simp] theorem initEndpoint_faults (s : State) (n : Ep) : (initEndpoint s n).faults = s.faults := by
  unfold initEndpoint
  split <;> rfl

/-- What holds where a request goes on and after a system reset holds after its row: the row records the value (log 7). -/
theorem Flow.GoesOrResets.returning {P : State → Prop} {f : Flow Bool} (h : f.GoesOrResets P)
    (hret : ∀ t v, P t → P (t.setRet v)) (hreset : ∀ u, P (systemReset u)) : P f.returning := by
  cases f with
  | go t b => exact hret t _ h
  | halt t =>
    obtain ⟨u, rfl⟩ := h
    exact hreset u

section

variable (k : Nat) (s : State)

/-- `t` has a ResponseTooLong of `k` bytes recorded only if `s` has. -/
def NotTooLong (t : State) : Prop := .responseTooLong k ∈ t.faults → .responseTooLong k ∈ s.faults

theorem response_notTooLong {data : List Byte} (h : data.length ≤ 256) :
    (Flow.go (sendUsbPacket s .ep0 data) true).GoesOrResets (NotTooLong k s) :=
  tooLong_mem_of_sendUsbPacket h

theorem getDescriptor_notTooLong (sp : SetupPacket) : (getDescriptor s sp).GoesOrResets (NotTooLong k s) := by
  unfold getDescriptor
  split
  · have hfits := selectDescriptor_data_length ‹_›
    rw [respond_eq]
    exact response_notTooLong k s ((List.length_take_le' _ _).trans hfits)
  · exact id
  · exact id

theorem setConfiguration_notTooLong (sp : SetupPacket) :
    (setConfiguration s sp).GoesOrResets (NotTooLong k s) := by
  refine .ite ?_ id
  simp [Flow.GoesOrResets, NotTooLong]

theorem setControlLineState_notTooLong (sp : SetupPacket) :
    (setControlLineState s sp).GoesOrResets (NotTooLong k s) :=
  .andThen (P := NotTooLong k s) (checkShouldReset_goesOrResets id) fun _ _ ht => ht

/-- The rows of R140, in the order of their codes: the responses are the two bytes of a status, a descriptor, a byte. -/
theorem standardRequest_notTooLong (sp : SetupPacket) : (standardRequest s sp).GoesOrResets (NotTooLong k s) :=
  .ite (response_notTooLong k s (by simp [statusReply])) <| .ite id <| .ite id <| .ite id <|
    .ite (getDescriptor_notTooLong k s sp) <| .ite id <| .ite (response_notTooLong k s (by simp)) <|
    .ite (setConfiguration_notTooLong k s sp) <| .ite (response_notTooLong k s (by simp)) <| .ite id id

/-- The rows of R170, in the order of their codes: the one response is the seven bytes of the line coding. -/
theorem classRequest_notTooLong (sp : SetupPacket) : (classRequest s sp).GoesOrResets (NotTooLong k s) :=
  .ite (.ite id <| .ite (response_notTooLong k s (by simp [lineCodingBytes, le32])) <|
    .ite (setControlLineState_notTooLong k s sp) <| .ite id id) id

theorem dispatchSetup_notTooLong (sp : SetupPacket) : (dispatchSetup s sp).GoesOrResets (NotTooLong k s) :=
  .ite (standardRequest_notTooLong k s sp) <| .ite (classRequest_notTooLong k s sp) id

end

/-! ## The step of `DMA` (R196) -/

/-- An IN transfer of written bytes loads them. -/
theorem completeIn_of_holds {s : State} {n : Ep} {buf : BufId} {off cnt : Half} {data : List Byte}
    (hlen : data.length = cnt.toNat) (h : Claims.Holds s.mem buf off.toNat data) :
    completeIn s ⟨.dirIn, n, buf, off, cnt⟩
      = ((s.setBus { s.bus with inLoaded := s.bus.inLoaded.set n (some data) }).setEvent (.endEpIn n) true).setDma
          none := by
  have hwritten : uninitFaults s.mem buf off.toNat data.length = [] :=
    uninitFaults_nil fun j hj => by rw [h j hj]; simpa using hj
  simp only [completeIn, ← hlen]
  rw [hwritten, peekAll_of_load h]
  rfl

/-- An OUT transfer stores the packet cut to `cnt` bytes, and reports how many bytes that is (D39). -/
theorem completeOut_eq (s : State) (n : Ep) (buf : BufId) (off cnt : Half) (d : List Byte) :
    completeOut s ⟨.dirOut, n, buf, off, cnt⟩ d
      = { s with
        dma := none
        mem := s.mem.storeAll buf off.toNat (d.take cnt.toNat)
        bus := { s.bus with outData := s.bus.outData.set n none }
        reg := { s.reg with
          epOutAmount := s.reg.epOutAmount.set n (BitVec.ofNat 16 (min d.length cnt.toNat))
          events := { s.reg.events with endEpOut := s.reg.events.endEpOut.set n true } } } := by
  rw [List.take_eq_take_min, Nat.min_comm cnt.toNat]
  rfl

/-! ## Turns of a hung block (R187) -/

section

variable {s : State}

theorem irqAt_hung {k : HangKind} (h : s.hang = some k) (p : IrqPhase) : irqAt s p = false := by
  simp [irqAt, h]

/-- No phase event and no invocation is enabled once `IRQ` is hung. -/
theorem exec_irqOperation_hung {k : HangKind} (h : s.hang = some k) (p : IrqPhase) :
    exec (irqOperation p) s = .next s := by
  cases p with
  | idle => exact if_neg (by simp [mayInvoke, irqAt_hung h])
  | d1 | d2 | d3 => simp [irqOperation, exec, execEvEpData, irqAt_hung h]
  | _ => exact if_neg (by simp [irqAt_hung h])

/-- No facade call runs while `FG` may not step (R250, R262). -/
theorem exec_facadeOperation_of_not_fgRuns (h : fgRuns s = false) (op : FacadeOp) :
    exec (facadeOperation op) s = .next s := by
  have hcall (op : FacadeOp) : ¬ mayCall s op = true := by simp [mayCall, h]
  cases op <;> exact if_neg (hcall _)

/-- No spin goes on while `FG` may not step (R250, R262). -/
theorem exec_writeByteSpin_of_not_fgRuns (h : fgRuns s = false) : exec .writeByteSpin s = .next s := by
  simp only [exec, execWriteByteSpin, h]
  split <;> rfl

/-- No call is entered while `FG` may not step (R250, R262). -/
theorem enterCall_of_not_fgRuns (h : fgRuns s = false) (op : FacadeOp) : enterCall s op = s := by
  simp [enterCall, h]

/-- A turn of `FG` is used up while `FG` may not step (R250, R262, log 2). -/
theorem takeTurn_fg_of_not_fgRuns (h : fgRuns s = false) : takeTurn s .fg = .next s := by
  cases hf : s.ctx.fg with
  | ready => exact takeTurn_fg_ready hf
  | call op => rw [takeTurn_fg_call hf, exec_facadeOperation_of_not_fgRuns h]
  | spin b => rw [takeTurn_fg_spin hf, exec_writeByteSpin_of_not_fgRuns h]

/-- A turn of `IRQ`, of `FG` or of a caller is used up once `IRQ` is hung. -/
theorem takeTurn_hung {k : HangKind} (h : s.hang = some k) {t : Turn} (ht : Claims.blockTurn t) :
    takeTurn s t = .next s := by
  obtain rfl | rfl | ⟨op, rfl⟩ := ht
  · rw [takeTurn_irq, exec_irqOperation_hung h]
  · exact takeTurn_fg_of_not_fgRuns (irqAt_hung h .idle)
  · rw [takeTurn_call, enterCall_of_not_fgRuns (irqAt_hung h .idle)]

end

/-! ## WRITE_BYTE and its spin (R246, R247) -/

section

variable {s : State} {b : Byte}

/-- WRITE_BYTE where it may run with a line set and the guard free, or an iteration of its spin with the guard free. -/
theorem exec_eq_acquireAndSend {i : Instr}
    (hi : (i = .writeByte b ∧ Claims.CallMayRun s (.writeByte b) ∧ s.ctx.line.lineState ≠ 0#2) ∨
      (i = .writeByteSpin ∧ Claims.AtPhase s .idle ∧ s.ctx.fg = .spin b))
    (hfree : s.ctx.dmaBusy = false) :
    exec i s = .next ((callEnds (acquireAndSend s b)).setRet .success) := by
  obtain ⟨rfl, hrun, hline⟩ | ⟨rfl, hidle, hspin⟩ := hi
  · simp [exec, execWriteByte, mayCall_of_callMayRun hrun, writeByte, hline, hfree]
  · simp [exec, execWriteByteSpin, hspin, fgRuns, irqAt_iff.mpr hidle, spinStep, hfree]

/-- With nothing in flight the guard is taken and one packet of the byte is started. -/
theorem acquireAndSend_free (hd : s.dma = none) :
    acquireAndSend s b
      = (programIn ((s.setDmaBusy true).setMem (s.mem.storeAll .epIn3 0 [b])) .ep3 ⟨.epIn3, 0#16⟩ 1#16).setDma
          (some ⟨.dirIn, .ep3, .epIn3, 0#16, 1#16⟩) := by
  rw [acquireAndSend, memWrite_free (s.setDmaBusy true) hd]
  exact sendViaEpIn_free ((s.setDmaBusy true).setMem _) hd (by decide)

/-- Under a transfer in flight the start is refused, with the guard taken. -/
theorem acquireAndSend_busy {x : Transfer} (hx : s.dma = some x) :
    acquireAndSend s b
      = (programIn (memWrite (s.setDmaBusy true) .epIn3 0 [b]) .ep3 ⟨.epIn3, 0#16⟩ 1#16).raise
          (.dmaContention x .dirIn .ep3) :=
  sendViaEpIn_busy (by simpa using hx) _ _ _

end

end Sys2Proof.Machine

namespace Sys2Proof.Claims

open Sys2Proof.Machine

/-- Settles O43: the responses of the requests are a status, a byte, the line coding and the descriptors, and each fits
the buffer (`dispatchSetup_notTooLong`); a reset by the hook leaves no fault. -/
theorem noResponseIsTooLong : Obligations.NoResponseIsTooLong := by
  unfold Obligations.NoResponseIsTooLong
  intro sp s t k ht
  obtain rfl : (dispatchSetup s sp).returning = t := Host.Outcome.next.inj ht
  exact (dispatchSetup_notTooLong k s sp).returning (fun _ _ h => h) (fun _ h => nomatch h)

/-- Settles O17: no turn of a hung block is enabled (`takeTurn_hung`). -/
theorem interruptAcquisitionTakesOrHangs : Obligations.InterruptAcquisitionTakesOrHangs := by
  unfold Obligations.InterruptAcquisitionTakesOrHangs
  intro s
  constructor
  · obtain ⟨hbusy, henter⟩ | ⟨hbusy, henter⟩ := enterCriticalSectionIrq_cases s
    · simp only [exec, execEnterCsIrq, henter, hbusy]
      rfl
    · simp only [exec, execEnterCsIrq, henter, hbusy]
      rfl
  · intro hhang t rest ht hsched
    rw [step_of_sched_cons hsched]
    exact takeTurn_hung (s := { s with sched := rest }) hhang ht

/-- Settles O44: RESPOND is SEND_USB_PACKET of the descriptor cut to the packet's length (`respond_eq`). -/
theorem respondCutsToLength : Obligations.RespondCutsToLength := by
  unfold Obligations.RespondCutsToLength
  intro sp d s
  have hcut : (d.take sp.length.toNat).length = min d.length sp.length.toNat := by
    rw [List.length_take, Nat.min_comm]
  simp only [exec, execRespond, respond_eq]
  constructor
  · intro hd hlen
    exact ⟨_, sendUsbPacket_sent hd (hcut ▸ hlen), rfl⟩
  · intro hlong
    have hexceeds : capacity (inBuf .ep0) < (d.take sp.length.toNat).length := by rwa [hcut]
    rw [sendUsbPacket_tooLong hexceeds, hcut]
    rfl

/-- Settles O45, by what fits: on endpoint 0 (`sendUsbPacket_sent`), elsewhere (`sendUsbPacket_data`), not at all
(`sendUsbPacket_tooLong`). -/
theorem sendUsbPacketSplitsControlOnly : Obligations.SendUsbPacketSplitsControlOnly := by
  unfold Obligations.SendUsbPacketSplitsControlOnly
  intro n data s
  refine ⟨?_, ?_, ?_⟩
  · intro hd hlen
    exact ⟨_, sendUsbPacket_sent hd hlen, rfl⟩
  · intro hd hn hlen
    exact ⟨_, wrote_storeAll s.mem (by rwa [Nat.zero_add]),
      congrArg Host.Outcome.next (sendUsbPacket_data hn hd hlen)⟩
  · intro hlong
    exact congrArg Host.Outcome.next (sendUsbPacket_tooLong hlong)

/-- Settles O46: the start is `sendViaEpIn_eq_started`, which leaves the context to the write of the continuation. -/
theorem sendContinuationAdvances : Obligations.SendContinuationAdvances := by
  unfold Obligations.SendContinuationAdvances
  rintro off rem s u rfl
  simp only [exec, execSendContinuation, sendContinuation_eq, sendViaEpIn_eq_started]
  rw [State.setPending, started_ctx]
  rfl

/-- Settles O49: both are a start of the region just programmed. -/
theorem unguardedStartsProgramAndStart : Obligations.UnguardedStartsProgramAndStart := by
  unfold Obligations.UnguardedStartsProgramAndStart
  intro n buf off cnt s
  exact ⟨congrArg Host.Outcome.next (sendViaEpIn_eq_started s n ⟨buf, off⟩ cnt),
    congrArg Host.Outcome.next (dmaStart_programOut s .ep0 ⟨.ep0Out, 0#16⟩ 64#16)⟩

/-- Settles O50: `FG` may step, and the guard decides between test-and-set and wait. -/
theorem guardIsTestAndSet : Obligations.GuardIsTestAndSet := by
  unfold Obligations.GuardIsTestAndSet
  intro s
  have henter (h : AtPhase s .idle) :
      exec .enterCs s = .next (if s.ctx.dmaBusy then s else s.setDmaBusy true) := enabled_atPhase h _ _
  refine ⟨?_, ?_, rfl⟩
  · intro h hfree
    rw [henter h, hfree]
    rfl
  · intro h hheld
    rw [henter h, hheld]
    rfl

/-- Settles O51: with the guard free, a start of the region just programmed, of the received size in 16 bits. -/
theorem bulkOutDoneStartsReceivedSize : Obligations.BulkOutDoneStartsReceivedSize := by
  unfold Obligations.BulkOutDoneStartsReceivedSize
  intro n s cnt hcnt
  obtain rfl : (s.reg.sizeEpOut.get n).setWidth 16 = cnt := by
    apply BitVec.eq_of_toNat_eq
    rw [BitVec.toNat_setWidth_of_le (by decide), hcnt]
  simp only [exec, execBulkOutDone]
  constructor
  · intro hheld
    rw [bulkOutDone_held hheld]
    rfl
  · intro hfree
    rw [bulkOutDone_free hfree, Flow.state_go, dmaStart_programOut]
    rfl

/-- Settles O53, by what is in flight: nothing, an IN transfer (`completeIn_of_holds`), an OUT transfer without and with
its packet (`completeOut_eq`). -/
theorem dmaCompleteMovesThePacket : Obligations.DmaCompleteMovesThePacket := by
  unfold Obligations.DmaCompleteMovesThePacket
  intro s
  simp only [exec, execDmaComplete, dmaComplete]
  refine ⟨?_, ?_, ?_, ?_⟩
  · intro hd
    rw [hd]
  · intro n buf off cnt data hd hlen hholds
    simp only [hd, completeIn_of_holds hlen hholds]
    rfl
  · intro n buf off cnt hd hnone
    simp only [hd, hnone]
  · intro n buf off cnt d hd hsome hbounds
    have hfits : off.toNat + (d.take cnt.toNat).length ≤ capacity buf := by
      rw [List.length_take]
      omega
    refine ⟨_, wrote_storeAll s.mem hfits, ?_⟩
    simp only [hd, hsome, completeOut_eq]

/-- Settles O57: with the guard free the call and the spin do the same (`exec_eq_acquireAndSend`), and the start is made
or refused (`acquireAndSend_free`, `acquireAndSend_busy`). -/
theorem writeByteSendsOnePacket : Obligations.WriteByteSendsOnePacket := by
  unfold Obligations.WriteByteSendsOnePacket
  intro b s
  have hwrite (h : CallMayRun s (.writeByte b)) : exec (.writeByte b) s = .next (writeByte s b) :=
    if_pos (mayCall_of_callMayRun h)
  refine ⟨?_, ?_, ?_, ?_⟩
  · intro h hline
    rw [hwrite h, writeByte, if_pos hline]
    rfl
  · intro h hline hheld
    rw [hwrite h, writeByte, if_neg hline, if_pos hheld]
    rfl
  · intro h hspin hheld
    simp [exec, execWriteByteSpin, hspin, fgRuns, irqAt_iff.mpr h, spinStep, hheld]
  · intro i hi hfree
    rw [exec_eq_acquireAndSend hi hfree]
    constructor
    · intro hd
      refine ⟨_, wrote_storeAll s.mem (by simp [capacity]), ?_⟩
      rw [acquireAndSend_free hd]
      rfl
    · intro x hx
      refine ⟨_, rfl, ?_⟩
      rw [acquireAndSend_busy hx]
      refine ⟨?_, (State.mem_raise_faults _).mpr (.inr rfl), ?_, rfl⟩
      · simpa [callEnds] using hx
      · simp [callEnds]

end Sys2Proof.Claims

/-! SUPPORT and PROOFS of 44_descriptors.md: GET_DESCRIPTOR by what the selection answers. -/

namespace Sys2Proof.Machine

/-! ## GET_DESCRIPTOR with nothing in flight (R215, R216) -/

/-- The descriptor a packet asks for is sent, cut to the packet's length. -/
theorem exec_getDescriptor_sent {s : State} {sp : SetupPacket} {i : Instr} {d : List Byte} (hd : s.dma = none)
    (hi : i = .getDescriptor sp ∨ i = .getDescriptorSelect sp) (h : Claims.AsksFor sp d) :
    ∃ u, Claims.Sent s u (d.take sp.length.toNat) ∧ exec i s = .next { u with ret := .bool true } := by
  obtain ⟨hsel, hlen⟩ := selectDescriptor_of_asksFor h
  have hgo : getDescriptor s sp = .go (sendUsbPacket s .ep0 (d.take sp.length.toNat)) true := by
    rw [getDescriptor, hsel]
    exact respond_eq s sp d
  refine ⟨_, sendUsbPacket_sent hd ((List.length_take_le' _ _).trans hlen), ?_⟩
  rw [exec_getDescriptor hi, hgo]
  rfl

/-- A refused type or index changes the returned value only (R231, R235). -/
theorem exec_getDescriptor_unsupported {s : State} {sp : SetupPacket} {i : Instr}
    (hi : i = .getDescriptor sp ∨ i = .getDescriptorSelect sp)
    (h : selectDescriptor sp.valueHigh sp.valueLow = .unsupported) : exec i s = .next { s with ret := .bool false } := by
  rw [exec_getDescriptor hi, getDescriptor, h]
  rfl

end Sys2Proof.Machine

namespace Sys2Proof.Claims

open Sys2Proof.Machine

/-- Settles O42, by what the packet asks for: a descriptor (`exec_getDescriptor_sent`), the serial number, which has no
data stage, or an index or type the selection refuses (`exec_getDescriptor_unsupported`). -/
theorem getDescriptorAnswersByType : Obligations.GetDescriptorAnswersByType := by
  unfold Obligations.GetDescriptorAnswersByType
  intro sp s i hd hi
  have sent {d : List Byte} (h : AsksFor sp d) := exec_getDescriptor_sent hd hi h
  refine ⟨?device, ?configuration, ?languages, ?manufacturer, ?product, ?serial, ?index, ?type⟩
  case device => exact fun hh => sent (.inl ⟨hh, rfl⟩)
  case configuration => exact fun hh => sent (.inr (.inl ⟨hh, rfl⟩))
  case languages => exact fun hh hl => sent (.inr (.inr (.inl ⟨hh, hl, rfl⟩)))
  case manufacturer => exact fun hh hl => sent (.inr (.inr (.inr (.inl ⟨hh, hl, rfl⟩))))
  case product => exact fun hh hl => sent (.inr (.inr (.inr (.inr ⟨hh, hl, rfl⟩))))
  case serial =>
    intro hh hl
    rw [exec_getDescriptor hi, getDescriptor, hh, hl]
    rfl
  case index =>
    intro hh hl
    exact exec_getDescriptor_unsupported hi (hh ▸ selectDescriptor_index_unsupported hl)
  case type => exact fun hh => exec_getDescriptor_unsupported hi (selectDescriptor_type_unsupported hh _)

end Sys2Proof.Claims

/-! SUPPORT and PROOFS of 45_facade.md: what a foreground operation does while `IRQ` is active, and CONFIGURE. -/

namespace Sys2Proof.Machine

/-- `FG` may not step in any phase of `IRQ` (R250, R262). -/
theorem fgRuns_of_irqActive {s : State} (h : s.ctx.irqPhase ≠ .idle) : fgRuns s = false := by
  simp [fgRuns, irqAt, h]

/-- No operation of the foreground does anything while `FG` may not step: the facade calls, the spin, the acquisition. -/
theorem exec_foregroundOperation_of_not_fgRuns {s : State} (h : fgRuns s = false) {i : Instr}
    (hi : Claims.foregroundOperation i) : exec i s = .next s := by
  obtain rfl | ⟨b, rfl⟩ | rfl | rfl | rfl | rfl := hi
  · exact exec_facadeOperation_of_not_fgRuns h .configure
  · exact exec_facadeOperation_of_not_fgRuns h (.writeByte b)
  · exact exec_writeByteSpin_of_not_fgRuns h
  · exact exec_facadeOperation_of_not_fgRuns h .dtr
  · exact exec_facadeOperation_of_not_fgRuns h .rts
  · exact if_neg (by simp [h])

end Sys2Proof.Machine

namespace Sys2Proof.Claims

open Sys2Proof.Machine

/-- Settles O16: with `IRQ` active `FG` may not step (`fgRuns_of_irqActive`), whatever the schedule, so its operations, its
turn and a caller's turn change nothing. -/
theorem foregroundTakesNoStepWhileIrqActive : Obligations.ForegroundTakesNoStepWhileIrqActive := by
  unfold Obligations.ForegroundTakesNoStepWhileIrqActive
  intro s h
  have hrest (rest : List Turn) : fgRuns { s with sched := rest } = false := fgRuns_of_irqActive h
  refine ⟨?operation, ?turn, ?caller⟩
  case operation => exact fun _ => exec_foregroundOperation_of_not_fgRuns (fgRuns_of_irqActive h)
  case turn =>
    intro rest hs
    rw [step_of_sched_cons hs, takeTurn_fg_of_not_fgRuns (hrest rest)]
  case caller =>
    intro op rest hs
    rw [step_of_sched_cons hs, takeTurn_call, enterCall_of_not_fgRuns (hrest rest)]

/-- Settles O56: the call may run, and `configure` followed by `callEnds` is the update of the statement. -/
theorem configureEnablesEightCauses : Obligations.ConfigureEnablesEightCauses := by
  unfold Obligations.ConfigureEnablesEightCauses
  intro s h
  calc exec .configure s
    _ = .next (callEnds (configure s)) := if_pos (mayCall_of_callMayRun h)
    _ = _ := rfl

end Sys2Proof.Claims

/-! SUPPORT and PROOFS of 60_exceptions.md: the fields a step of `HOST` may write, and when it may take the peripheral to
ready or send a setup packet. -/

namespace Sys2Proof.Machine

/-! ## The frame of a step of `HOST` (R275 to R278) -/

/-- `s` with the fields a step of `HOST` may write as they are in `t`: the bus side, the history, the events, EVENTCAUSE,
the setup registers, EPDATASTATUS and `SIZE_EPOUT`. -/
def State.withHostFieldsOf (s t : State) : State :=
  { s with
    bus := t.bus
    history := t.history
    reg := { s.reg with
      events := t.reg.events
      eventCause := t.reg.eventCause
      setup := t.reg.setup
      epDataStatus := t.reg.epDataStatus
      sizeEpOut := t.reg.sizeEpOut } }

/-- The later of two such writes counts. -/
theorem State.withHostFieldsOf_withHostFieldsOf (s t u : State) :
    (s.withHostFieldsOf t).withHostFieldsOf u = s.withHostFieldsOf u := rfl

/-- `t` is `s` but for what a step of `HOST` may write, and of the history nothing is removed. -/
structure HostFrame (s t : State) : Prop where
  fields : t = s.withHostFieldsOf t
  history : s.history <+: t.history

section

variable {s t u : State}

/-- A step of `HOST` that leaves the history keeps to the frame when it writes the frame's fields only. -/
theorem HostFrame.of_history_eq (h : t.history = s.history) (fields : t = s.withHostFieldsOf t := by rfl) :
    HostFrame s t :=
  ⟨fields, h ▸ List.prefix_rfl⟩

theorem HostFrame.refl (s : State) : HostFrame s s := .of_history_eq rfl

theorem HostFrame.trans (ht : HostFrame s t) (hu : HostFrame t u) : HostFrame s u :=
  ⟨hu.fields.trans (by rw [ht.fields, State.withHostFieldsOf_withHostFieldsOf]), ht.history.trans hu.history⟩

theorem HostFrame.ite {c : Prop} [Decidable c] (ht : HostFrame s t) (hu : HostFrame s u) :
    HostFrame s (if c then t else u) := by
  split
  · exact ht
  · exact hu

end

section

variable (s : State)

theorem hostReady_frame : HostFrame s (hostReady s) := .ite (.of_history_eq rfl) (.refl s)

theorem hostSetup_frame (r : SetupRegs) : HostFrame s (hostSetup s r) := .ite (.of_history_eq rfl) (.refl s)

theorem markInDone_frame (n : Ep) : HostFrame s (markInDone s n) := .ite (.of_history_eq rfl) (.of_history_eq rfl)

theorem hostTakeIn_frame (n : Ep) : HostFrame s (hostTakeIn s n) := by
  unfold hostTakeIn
  split
  · exact .refl s
  · next p _ =>
    have emits : HostFrame s ((s.emit (.tx n p)).setBus { s.bus with inLoaded := s.bus.inLoaded.set n none }) :=
      ⟨rfl, List.prefix_append _ _⟩
    exact .ite (emits.trans (markInDone_frame _ n)) (.refl s)

theorem hostOutControl_frame (d : List Byte) : HostFrame s (hostOutControl s d) := .ite (.of_history_eq rfl) (.refl s)

theorem hostOutData_frame (n : Ep) (d : List Byte) : HostFrame s (hostOutData s n d) :=
  .ite (.of_history_eq rfl) (.refl s)

theorem hostSendOut_frame (n : Ep) (d : List Byte) : HostFrame s (hostSendOut s n d) :=
  .ite (.refl s) (.ite (hostOutControl_frame s d) (hostOutData_frame s n d))

theorem hostStep_frame (h : HostStep) : HostFrame s (hostStep s h) :=
  match h with
  | .ready => hostReady_frame s
  | .setup _ _ _ _ _ _ _ _ => hostSetup_frame s _
  | .takeIn n => hostTakeIn_frame s n
  | .sendOut n d => hostSendOut_frame s n d

/-! ## The setup packet of the host (R276) -/

theorem hostSetup_eq (r : SetupRegs) :
    hostSetup s r
      = if s.reg.enable = true ∧ s.reg.usbPullup = true ∧ s.bus.ready = true then
          ((s.setReg { s.reg with setup := r }).setBus { s.bus with
            inLoaded := s.bus.inLoaded.set .ep0 none
            outData := s.bus.outData.set .ep0 none
            ep0RcvArmed := false }).setEvent .ep0Setup true
        else s := by
  simp [hostSetup, and_assoc]

end

end Sys2Proof.Machine

namespace Sys2Proof.Claims

open Sys2Proof.Machine

/-- Settles O18: a step of `HOST` keeps to its frame (`hostStep_frame`), which names none of the fields listed. -/
theorem hostStepsLeaveTheBlockAlone : Obligations.HostStepsLeaveTheBlockAlone := by
  unfold Obligations.HostStepsLeaveTheBlockAlone
  intro s t h rest hs ht
  rw [step_of_sched_cons hs, takeTurn_host] at ht
  obtain rfl := Host.Outcome.next.inj ht
  obtain ⟨fields, more, hmore⟩ := hostStep_frame { s with sched := rest } h
  rw [fields]
  exact ⟨rfl, rfl, rfl, rfl, rfl, rfl, rfl, rfl, rfl, rfl, rfl, rfl, rfl, rfl, rfl, rfl, rfl, rfl, rfl, more, hmore.symm⟩

/-- Settles O59: `hostReady` is written as the statement has it, and `hostSetup_eq` reads its condition as R276 does. -/
theorem hostReadyAndSetup : Obligations.HostReadyAndSetup := by
  unfold Obligations.HostReadyAndSetup
  intro s rest b0 b1 b2 b3 b4 b5 b6 b7
  refine ⟨fun hs => ?ready, fun hs => ?setup⟩
  case ready =>
    rw [step_of_sched_cons hs]
    rfl
  case setup =>
    rw [step_of_sched_cons hs]
    exact congrArg Host.Outcome.next (hostSetup_eq { s with sched := rest } ⟨b0, b1, b2, b3, b4, b5, b6, b7⟩)

end Sys2Proof.Claims
